-- ==== Sys2Proof/Word.lean ====
section
/-! DEFINITION. The word type of the block: a byte, and sequences of bytes. -/

namespace Sys2Proof

/-- One byte of the input stream, of a frame or of a payload (R7). PRESUMED (log 9): the width of
eight bits is `BYTE_W`, which spec/93_implementation_defined.md G1 supplies from general knowledge;
safe, because no rule compares a byte with anything but three constants. -/
abbrev Byte := BitVec 8

/-- A finite ordered list of bytes, index 0 the byte received first (R7, R32). -/
abbrev Bytes := List Byte

end Sys2Proof
end

