-- ==== Sys2Proof/Config.lean ====
section
/-! DEFINITION. The constants and the parameters of R6 (spec/00_scope.md). -/

namespace Sys2Proof

/-- Start marker and escape byte (R6, R44). -/
def DLE : Byte := 0x10

/-- End-of-frame companion byte (R6, R44). -/
def ETX : Byte := 0x03

/-- Least buffer length at which a frame may complete, `MIN_FRAME` (R6, R45). -/
abbrev minFrame : Nat := 5

/-- First buffer index included in the DLE count, `COUNT_FROM` (R6, R55). -/
abbrev countFrom : Nat := 2

/-- The `id` field of an invalid Packet, `INVALID_ID` (R6, R76). -/
def invalidId : Byte := 0

/-- The parameters that R6 leaves open or keeps as a parameter. They are constants fixed before
reset, not registers (R23, R113). DESIGN CHOICE (log 3): a state carries them as data that no
operation changes, so that a statement over every state covers every setting; safe. `CONSUMERS`, the
third parameter, is the index set of the state's `inboxes` (log 4). -/
structure Params where
  /-- `MAX_FRAME_LEN`: greatest buffer length, `none` for unbounded (R6, D4). -/
  maxFrameLen : Option Nat
  /-- `END_FLAG_CHECK`: whether a pending flag left at the end of the scan is a failure (R6, D3). -/
  endFlagCheck : Bool
deriving DecidableEq, Repr

/-- The reference values: no bound, no end-of-scan check (R6). -/
def Params.reference : Params := { maxFrameLen := none, endFlagCheck := false }

/-- The constraint of R6 on the bound: when it is `some N`, then `N >= 5`. -/
def Params.wf (p : Params) : Bool :=
  match p.maxFrameLen with
  | none => true
  | some n => decide (minFrame ≤ n)

end Sys2Proof
end

