-- ==== Sys2Proof/Syntax.lean ====
section
/-! DEFINITION. The operations of the block: one constructor per row of the operation table
(R47, R53), with the values that cross the block's boundary (R12, R17). -/

namespace Sys2Proof

/-- FramingState: outside a frame, or inside one (R12). -/
inductive FramingState where
  | idle
  | inFrame
deriving DecidableEq, Repr

/-- The decoded result of one completed frame, four fields (R17, R46). -/
structure Packet where
  isValid : Bool
  id : Byte
  data : Bytes
  rawData : Bytes
deriving DecidableEq, Repr

/-- The one invalid Packet value (R17, R76). -/
def Packet.invalid : Packet := { isValid := false, id := invalidId, data := [], rawData := [] }

/-- The operations of R47. A constructor takes the operands its rule lists and that its row does not
fix: a row whose byte is `0x10` or `0x03` by its match has none. -/
inductive Instr where
  /-- `FEED(b)`, R54. -/
  | feed (b : Byte)
  /-- `IDLE.START`, the byte is `0x10`, R56. -/
  | idleStart
  /-- `IDLE.DROP` of a byte that is not `0x10`, R57. -/
  | idleDrop (b : Byte)
  /-- `FRAME.ETX.SHORT`, the byte is `0x03`, R59. -/
  | frameEtxShort
  /-- `FRAME.ETX.DATA`, the byte is `0x03`, R60. -/
  | frameEtxData
  /-- `FRAME.ETX.END`, the byte is `0x03`, R61. -/
  | frameEtxEnd
  /-- `FRAME.APPEND` of a byte that is not `0x03`, R58. -/
  | frameAppend (b : Byte)
  /-- `FRAME.OVERFLOW`, no operand, R62. -/
  | frameOverflow
  /-- `DECODE(f)` of a RawFrame, R68. -/
  | decode (f : Bytes)
  /-- `DEC.ID`, reads `f[1]`, R69. -/
  | decId
  /-- `DEC.SLICE`, reads `f[2 .. len(f)-2)`, R70. -/
  | decSlice
  /-- `U.DLE1`, the payload byte is `0x10`, R73. -/
  | uDle1
  /-- `U.DLE2`, the payload byte is `0x10`, R74. -/
  | uDle2
  /-- `U.COPY` of a payload byte that is not `0x10`, R71. -/
  | uCopy (c : Byte)
  /-- `U.FAIL` on a payload byte that is not `0x10`, R72. -/
  | uFail (c : Byte)
  /-- `DEC.ENDSCAN`, no operand, R75. -/
  | decEndscan
  /-- `DEC.INVALID`, no operand, R76. -/
  | decInvalid
  /-- `DEC.VALID`, no operand, R77. -/
  | decValid
  /-- `DISPATCH(b)`, the one externally invoked operation, R81. -/
  | dispatch (b : Byte)
  /-- `DELIVER(pkt)`, R82. -/
  | deliver (pkt : Packet)
  /-- `FEEDCHUNK(s)`, R85. -/
  | feedchunk (s : Bytes)
  /-- `S.DOUBLE`, the payload byte is `0x10`, R91. -/
  | sDouble
  /-- `S.COPY` of a payload byte that is not `0x10`, R90. -/
  | sCopy (c : Byte)
  /-- `STUFF(p)`, R92. -/
  | stuff (p : Bytes)
  /-- `FRAME(i, p)`, R93. -/
  | frame (i : Byte) (p : Bytes)
deriving DecidableEq, Repr

/-- The kind of a row (R53): selected by one byte, defined by calling others, or an action inside a
composite operation that no byte selects. -/
inductive Format where
  | byte
  | composite
  | step
deriving DecidableEq, Repr

/-- The `format` column of the operation table (R53). -/
def Instr.format : Instr → Format
  | .feed _ => .composite
  | .idleStart => .byte
  | .idleDrop _ => .byte
  | .frameEtxShort => .byte
  | .frameEtxData => .byte
  | .frameEtxEnd => .byte
  | .frameAppend _ => .byte
  | .frameOverflow => .step
  | .decode _ => .composite
  | .decId => .step
  | .decSlice => .step
  | .uDle1 => .byte
  | .uDle2 => .byte
  | .uCopy _ => .byte
  | .uFail _ => .byte
  | .decEndscan => .step
  | .decInvalid => .step
  | .decValid => .step
  | .dispatch _ => .composite
  | .deliver _ => .step
  | .feedchunk _ => .composite
  | .sDouble => .byte
  | .sCopy _ => .byte
  | .stuff _ => .composite
  | .frame _ _ => .composite

/-- The `mnemonic` column of the operation table (R47). -/
def Instr.mnemonic : Instr → String
  | .feed _ => "FEED"
  | .idleStart => "IDLE.START"
  | .idleDrop _ => "IDLE.DROP"
  | .frameEtxShort => "FRAME.ETX.SHORT"
  | .frameEtxData => "FRAME.ETX.DATA"
  | .frameEtxEnd => "FRAME.ETX.END"
  | .frameAppend _ => "FRAME.APPEND"
  | .frameOverflow => "FRAME.OVERFLOW"
  | .decode _ => "DECODE"
  | .decId => "DEC.ID"
  | .decSlice => "DEC.SLICE"
  | .uDle1 => "U.DLE1"
  | .uDle2 => "U.DLE2"
  | .uCopy _ => "U.COPY"
  | .uFail _ => "U.FAIL"
  | .decEndscan => "DEC.ENDSCAN"
  | .decInvalid => "DEC.INVALID"
  | .decValid => "DEC.VALID"
  | .dispatch _ => "DISPATCH"
  | .deliver _ => "DELIVER"
  | .feedchunk _ => "FEEDCHUNK"
  | .sDouble => "S.DOUBLE"
  | .sCopy _ => "S.COPY"
  | .stuff _ => "STUFF"
  | .frame _ _ => "FRAME"

end Sys2Proof
end

