-- ==== Sys2Proof/WellFormed.lean ====
section
/-! DEFINITION. When the operands of an operation lie in the domain its rule gives. -/

namespace Sys2Proof

/-- The shape of a Packet this block can produce (R17, R18): the invalid Packet is one fixed value,
and a valid Packet's `rawData` and `data` have the stated lengths and bytes. -/
def Packet.wf (p : Packet) : Bool :=
  if p.isValid then
    decide (minFrame ≤ p.rawData.length)
      && p.rawData[0]? == some DLE
      && p.rawData[1]? == some p.id
      && p.rawData[p.rawData.length - 1]? == some ETX
      && decide (1 ≤ p.data.length)
      && decide (p.data.length ≤ p.rawData.length - 4)
  else p == Packet.invalid

/-- The operand conditions of the rows (R47, R48, R53) and of the rules' domains (R79, R93). -/
def Instr.wf : Instr → Bool
  | .feed _ => true
  | .idleStart => true
  | .idleDrop b => b != DLE
  | .frameEtxShort => true
  | .frameEtxData => true
  | .frameEtxEnd => true
  | .frameAppend b => b != ETX
  | .frameOverflow => true
  | .decode f => decide (minFrame ≤ f.length)
  | .decId => true
  | .decSlice => true
  | .uDle1 => true
  | .uDle2 => true
  | .uCopy c => c != DLE
  | .uFail c => c != DLE
  | .decEndscan => true
  | .decInvalid => true
  | .decValid => true
  | .dispatch _ => true
  | .deliver pkt => pkt.wf
  | .feedchunk _ => true
  | .sDouble => true
  | .sCopy c => c != DLE
  | .stuff _ => true
  | .frame _ p => decide (1 ≤ p.length)

end Sys2Proof
end

