-- ==== Sys2Proof/Decode.lean ====
section
/-! DEFINITION. Which operation is selected: the decoder of the operation table (R47, R48, R53),
total on any bytes and rejecting by name, and after it the encoder.

The block has no instruction words. A BYTE row is selected by one byte together with the conditions
in the row's `fields`; every other row is selected by the place in the algorithm (R47's column
"selected by"), and its operand, where it is bytes, is the sequence it takes. A `Site` says where the
selection happens and carries the conditions. DESIGN CHOICE (log 13): the word of an operation is its
input byte, or its operand sequence, or nothing where no byte value selects it; safe. -/

namespace Sys2Proof

/-- A place where an operation is selected, with what the selection there looks at besides the bytes
(R47, R48). -/
inductive Site where
  /-- The input port, one byte: `DISPATCH` (R19, R81). -/
  | port
  /-- A chunk of input bytes: `FEEDCHUNK` (R85). -/
  | chunkPort
  /-- The FrameAssembler's `feed` call, one byte: `FEED` (R54). -/
  | feedPort
  /-- Inside `FEED`: the framing state, the length after the append, and whether the DLE count after
  the append is odd (R48, R53: `fs`, `len_after`, `count_parity`). -/
  | assembler (fs : FramingState) (lenAfter : Nat) (countOdd : Bool)
  /-- After the append of a step in a frame: the length and the bound `MAX_FRAME_LEN` (R48, R62). -/
  | guard (len : Nat) (bound : Option Nat)
  /-- A RawFrame handed to the Decoder: `DECODE` (R68). -/
  | decoderPort
  /-- Inside `DECODE`, order 1 (R69). -/
  | decodeId
  /-- Inside `DECODE`, order 2 (R70). -/
  | decodeSlice
  /-- One payload byte of the unstuffing scan, with the pending flag (R48). -/
  | unstuff (pend : Bool)
  /-- Inside `DECODE`, order 4, after the last payload byte (R75). -/
  | scanEnd
  /-- Inside `DECODE`, order 5, with the failure flag (R76, R77). -/
  | verdict (failed : Bool)
  /-- Inside `DISPATCH`, with the Packet to hand out (R82). -/
  | delivery (pkt : Packet)
  /-- A payload handed to the stuffing function: `STUFF` (R92). -/
  | stuffPort
  /-- An id byte and a payload handed to the frame generator: `FRAME` (R93). -/
  | framePort
  /-- One payload byte of the stuffing function (R48). -/
  | stuff
deriving DecidableEq, Repr

/-- Why a site and its bytes select no operation. No byte at a BYTE site is ever rejected (R51). -/
inductive DecodeError where
  /-- The site takes exactly one byte. -/
  | notOneByte
  /-- The site takes no byte: no byte value selects its operation (R53). -/
  | takesNoByte
  /-- A RawFrame of fewer than five bytes (R79). -/
  | shortFrame
  /-- `FRAME` takes an id byte and a payload that is not empty (R93). -/
  | emptyPayload
  /-- The length guard does not fire: no bound, or the length is below it (R62). -/
  | belowBound
  /-- A value that is no Packet of this block (R17, R18). -/
  | notAPacket
  /-- No row of the table applies; for one byte at a BYTE site this never happens. -/
  | noRow
deriving DecidableEq, Repr

/-- The rows whose `fields` ask for `fs = Idle`. -/
def Site.isIdle : Site → Bool
  | .assembler .idle _ _ => true
  | _ => false

/-- The rows whose `fields` ask for `fs = InFrame`. -/
def Site.isInFrame : Site → Bool
  | .assembler .inFrame _ _ => true
  | _ => false

/-- `fs = InFrame`, `len_after < 5` (R59). -/
def Site.isShort : Site → Bool
  | .assembler .inFrame len _ => decide (len < minFrame)
  | _ => false

/-- `fs = InFrame`, `len_after >= 5`, `count_parity` even (R60) or odd (R61). -/
def Site.isFull (countOdd : Bool) : Site → Bool
  | .assembler .inFrame len odd => decide (minFrame ≤ len) && odd == countOdd
  | _ => false

/-- `MAX_FRAME_LEN = some N` and the length is at least `N` (R62). -/
def Site.isOverflow : Site → Bool
  | .guard len (some n) => decide (n ≤ len)
  | _ => false

/-- One BYTE row of the operation table (R53): its match and mask, the conditions in its `fields`,
and the operation with the byte as its operand. -/
structure ByteRow where
  pattern : Byte
  mask : Byte
  holds : Site → Bool
  build : Byte → Instr

/-- `(b AND mask) = match`, and the row's conditions hold (R48). -/
def ByteRow.applies (r : ByteRow) (site : Site) (b : Byte) : Bool :=
  r.holds site && (b &&& r.mask) == r.pattern

/-- The rows of priority 0: the exact rows (R48, R53). -/
def exactRows : List ByteRow :=
  [ { pattern := 0x10, mask := 0xFF, holds := Site.isIdle, build := fun _ => .idleStart },
    { pattern := 0x03, mask := 0xFF, holds := Site.isShort, build := fun _ => .frameEtxShort },
    { pattern := 0x03, mask := 0xFF, holds := Site.isFull false, build := fun _ => .frameEtxData },
    { pattern := 0x03, mask := 0xFF, holds := Site.isFull true, build := fun _ => .frameEtxEnd },
    { pattern := 0x10, mask := 0xFF, holds := (· == .unstuff false), build := fun _ => .uDle1 },
    { pattern := 0x10, mask := 0xFF, holds := (· == .unstuff true), build := fun _ => .uDle2 },
    { pattern := 0x10, mask := 0xFF, holds := (· == .stuff), build := fun _ => .sDouble } ]

/-- The rows of priority 1: the rows with mask 0, which match every byte (R48, R53). -/
def catchAllRows : List ByteRow :=
  [ { pattern := 0x00, mask := 0x00, holds := Site.isIdle, build := .idleDrop },
    { pattern := 0x00, mask := 0x00, holds := Site.isInFrame, build := .frameAppend },
    { pattern := 0x00, mask := 0x00, holds := (· == .unstuff false), build := .uCopy },
    { pattern := 0x00, mask := 0x00, holds := (· == .unstuff true), build := .uFail },
    { pattern := 0x00, mask := 0x00, holds := (· == .stuff), build := .sCopy } ]

/-- The operation a byte selects at a BYTE site: rows are tried in increasing priority and the first
that applies is taken (R48). -/
def decodeByte (site : Site) (b : Byte) : Except DecodeError Instr :=
  match (exactRows ++ catchAllRows).find? (fun r => r.applies site b) with
  | some r => .ok (r.build b)
  | none => .error .noRow

/-- A site that takes exactly one byte. -/
def oneByte (op : Byte → Except DecodeError Instr) : Bytes → Except DecodeError Instr
  | [b] => op b
  | _ => .error .notOneByte

/-- A site that takes no byte. -/
def noByte (op : Except DecodeError Instr) : Bytes → Except DecodeError Instr
  | [] => op
  | _ :: _ => .error .takesNoByte

/-- `FRAME` takes an id byte and then a payload of at least one byte (R93). -/
def decodeFrameOperands : Bytes → Except DecodeError Instr
  | i :: c :: p => .ok (.frame i (c :: p))
  | _ => .error .emptyPayload

/-- The decoder: the operation selected at a site by the bytes given there (R47, R48, R53). -/
def decodeAt (site : Site) (word : Bytes) : Except DecodeError Instr :=
  match site with
  | .port => oneByte (fun b => .ok (.dispatch b)) word
  | .chunkPort => .ok (.feedchunk word)
  | .feedPort => oneByte (fun b => .ok (.feed b)) word
  | .assembler _ _ _ => oneByte (decodeByte site) word
  | .guard _ _ => noByte (if site.isOverflow then .ok .frameOverflow else .error .belowBound) word
  | .decoderPort => if minFrame ≤ word.length then .ok (.decode word) else .error .shortFrame
  | .decodeId => noByte (.ok .decId) word
  | .decodeSlice => noByte (.ok .decSlice) word
  | .unstuff _ => oneByte (decodeByte site) word
  | .scanEnd => noByte (.ok .decEndscan) word
  | .verdict failed => noByte (.ok (if failed then .decInvalid else .decValid)) word
  | .delivery pkt => noByte (if pkt.wf then .ok (.deliver pkt) else .error .notAPacket) word
  | .stuffPort => .ok (.stuff word)
  | .framePort => decodeFrameOperands word
  | .stuff => oneByte (decodeByte site) word

/-- The site conditions of each row: R47's column "selected by" and the table's `fields`. -/
def Instr.selectedAt (i : Instr) (site : Site) : Bool :=
  match i with
  | .feed _ => site == .feedPort
  | .idleStart => site.isIdle
  | .idleDrop _ => site.isIdle
  | .frameEtxShort => site.isShort
  | .frameEtxData => site.isFull false
  | .frameEtxEnd => site.isFull true
  | .frameAppend _ => site.isInFrame
  | .frameOverflow => site.isOverflow
  | .decode _ => site == .decoderPort
  | .decId => site == .decodeId
  | .decSlice => site == .decodeSlice
  | .uDle1 => site == .unstuff false
  | .uDle2 => site == .unstuff true
  | .uCopy _ => site == .unstuff false
  | .uFail _ => site == .unstuff true
  | .decEndscan => site == .scanEnd
  | .decInvalid => site == .verdict true
  | .decValid => site == .verdict false
  | .dispatch _ => site == .port
  | .deliver pkt => site == .delivery pkt
  | .feedchunk _ => site == .chunkPort
  | .sDouble => site == .stuff
  | .sCopy _ => site == .stuff
  | .stuff _ => site == .stuffPort
  | .frame _ _ => site == .framePort

/-- The encoder: the bytes of an operation at the site that selects it, from the table's `encoding`
column for the BYTE rows and from `operand_desc` for the others (R53). -/
def encode : Instr → Bytes
  | .feed b => [b]
  | .idleStart => [0x10]
  | .idleDrop b => [b]
  | .frameEtxShort => [0x03]
  | .frameEtxData => [0x03]
  | .frameEtxEnd => [0x03]
  | .frameAppend b => [b]
  | .frameOverflow => []
  | .decode f => f
  | .decId => []
  | .decSlice => []
  | .uDle1 => [0x10]
  | .uDle2 => [0x10]
  | .uCopy c => [c]
  | .uFail c => [c]
  | .decEndscan => []
  | .decInvalid => []
  | .decValid => []
  | .dispatch b => [b]
  | .deliver _ => []
  | .feedchunk s => s
  | .sDouble => [0x10]
  | .sCopy c => [c]
  | .stuff p => p
  | .frame i p => i :: p

/-- The bytes of a table word of `n` bytes: the first byte is bits 7..0, the next bits 15..8, and so
on (the host's numbering of the table's bits). -/
def bytesOfWord : Nat → Nat → Bytes
  | 0, _ => []
  | n + 1, w => BitVec.ofNat 8 w :: bytesOfWord n (w / 256)

/-- How many bytes a table word of `nbits` bits takes; the longest row, and the shortest transaction,
is one byte (R19). -/
def wordLength (nbits : Nat) : Nat :=
  max 1 ((nbits + 7) / 8)

/-- The site at which the first input byte after reset is classified: `fs = Idle`, and the byte would
be the first of the buffer (R26, R48). -/
def resetSite : Site := .assembler .idle 1 false

/-- What the decoder reads from a table word given as the first input byte after reset. DESIGN CHOICE
(log 12): a lone byte does not name a row, because rows of several groups share their match (R53), so
the reset state's group `assembler.Idle` answers; safe. -/
def decodeTableWord (nbits w : Nat) : Option Instr :=
  match decodeAt resetSite (bytesOfWord (wordLength nbits) w) with
  | .ok i => some i
  | .error _ => none

end Sys2Proof
end

