-- ==== Sys2Proof/Machine/Operands.lean ====
section
/-! DEFINITION. The operand forms of the rules, all by position (R49): slices, the DLE count, the id
and payload of a RawFrame, and the class of a byte. -/

namespace Sys2Proof.Machine

/-- The three classes of byte that any rule distinguishes (R44). -/
inductive ByteClass where
  | dle
  | etx
  | other
deriving DecidableEq, Repr

/-- The class of a byte depends on its value alone (R44). -/
def byteClass (b : Byte) : ByteClass :=
  if b = DLE then .dle else if b = ETX then .etx else .other

/-- `s[a .. b)`, the bytes at indices `a <= k < b`, empty when `a >= b` (R7). -/
def slice (s : Bytes) (a b : Nat) : Bytes :=
  (s.take b).drop a

/-- `cnt(s, a, b)`, the number of `DLE` at indices `a <= k < b` (R7). -/
def cnt (s : Bytes) (a b : Nat) : Nat :=
  (slice s a b).count DLE

/-- The byte at index 1 of a RawFrame (R49, R69). The default is never read: the rule's domain has at
least five bytes (R79), and every caller checks that or has it. -/
def frameId (f : Bytes) : Byte :=
  f.getD 1 0

/-- The payload slice of a RawFrame, `[2, length-2)`, cut by index without reading the dropped bytes
(R49, R70). -/
def framePayload (f : Bytes) : Bytes :=
  slice f countFrom (f.length - 2)

end Sys2Proof.Machine
end

