-- ==== Sys2Proof/Machine/Flags.lean ====
section
/-! DEFINITION. The one-bit values the rules compute (R22, R24): the count parity and the tests made
on a buffer after an append. -/

namespace Sys2Proof.Machine

/-- `odd(n)` (R7). -/
def odd (n : Nat) : Bool :=
  n % 2 == 1

/-- The count parity `odd(cnt(buf, 2, len(buf)))`: computed from the buffer, not stored (R24, R55). -/
def countParity (buf : Bytes) : Bool :=
  odd (cnt buf countFrom buf.length)

/-- The completion test after the byte `b` has been appended: an `ETX`, a length of at least five, an
odd count (R54, R61). The byte before the `ETX` is not looked at (R61 corner case (a)). -/
def completes (b : Byte) (buf : Bytes) : Bool :=
  b == ETX && decide (minFrame ≤ buf.length) && countParity buf

/-- The length guard: `MAX_FRAME_LEN = some N` and the length after the append is at least `N`
(R54, R62). -/
def overflows (p : Params) (buf : Bytes) : Bool :=
  match p.maxFrameLen with
  | none => false
  | some n => decide (n ≤ buf.length)

end Sys2Proof.Machine
end

