-- ==== Sys2Proof/Machine/State.lean ====
section
/-! DEFINITION. The state of the block as plain data, its fault and refusal types, and the state after
reset (spec/10_state.md). -/

namespace Sys2Proof.Machine

/-- The output event of a step (R19): at most one Packet, or the overflow outcome. -/
inductive OutEvent where
  /-- The step completed no frame and abandoned none. -/
  | none
  /-- The step completed a frame. -/
  | packet (p : Packet)
  /-- The step abandoned a frame; only with `MAX_FRAME_LEN` set (R62, R101). -/
  | tooLong
deriving DecidableEq, Repr

/-- What `FEED` returns: the wire between FrameAssembler and Decoder (R16, R19, R54). -/
inductive FeedResult where
  | none
  | frame (f : Bytes)
  | tooLong
deriving DecidableEq, Repr

/-- The Decoder's scratch (R15) and the values its pseudocode names (R68). None of it survives a
step: `DISPATCH` leaves it at `DecScratch.initial` (R11). DESIGN CHOICE (log 6): the locals `f`, `id`,
`p` and the returned Packet are fields, so that each step of `DECODE` has a state to act on; unsafe,
because their values outside a `DECODE` are the model's. -/
structure DecScratch where
  /-- The RawFrame `f` under decoding (R16, R68). -/
  frame : Bytes
  /-- The extracted id (R69). -/
  id : Byte
  /-- The payload slice `p` (R70). -/
  p : Bytes
  /-- The pending-escape flag (R15). -/
  pend : Bool
  /-- The output sequence under construction (R15). -/
  out : Bytes
  /-- Set when the scan meets malformed input (R15). -/
  failed : Bool
  /-- The scan position in the slice (R15). -/
  k : Nat
  /-- The Packet `DECODE` returns, absent before it returns one (R68). -/
  packet : Option Packet
deriving DecidableEq, Repr

/-- The values at the start of every scan (R26), and the model's values for the locals (log 6). -/
def DecScratch.initial : DecScratch :=
  { frame := [], id := 0, p := [], pend := false, out := [], failed := false, k := 0, packet := none }

/-- The state of the block (R11), its ports (R19), and the parameters of the run (R6). -/
structure State where
  /-- The parameters, which no operation changes (R6, R113; log 3). -/
  params : Params
  /-- FramingState (R12). -/
  fs : FramingState
  /-- AccumulationBuffer (R13): the block's only memory, address `i` its byte at index `i` (R27). -/
  buf : Bytes
  /-- Input bytes presented and not yet accepted, oldest first (R19; log 1). -/
  input : Bytes
  /-- The output event of the latest step (R19). -/
  event : OutEvent
  /-- The output trace: the events other than `none`, oldest first (R19, R26). -/
  trace : List OutEvent
  /-- One list per member of `CONSUMERS`: what it has been handed, oldest first (R82; log 4). -/
  inboxes : List (List OutEvent)
  /-- The value `FEED` returned (R54; log 6). -/
  feedResult : FeedResult
  /-- The Decoder's scratch (R15). -/
  dec : DecScratch
  /-- The sequence the stuffing functions build and return (R90 to R93; log 6). -/
  stuffOut : Bytes
deriving DecidableEq, Repr

/-- The reasons the machine stops with a fault: none. "No exceptions/panics cross the framing
boundary; all failure is represented as data" (R102). -/
inductive Fault where
deriving DecidableEq, Repr

/-- The reasons an operation has no meaning. None is reachable from `step`. -/
inductive Refusal where
  /-- An operation without a meaning, by its mnemonic; raised by no arm of this model; safe. -/
  | notModelled (mnemonic : String)
  /-- The row's conditions on state or byte do not hold, so the operation is not selected (R48, R53).
  Raised by the meaning of each BYTE or STEP row that has such conditions; DESIGN CHOICE (log 7);
  safe, since it only stops. -/
  | notSelected (mnemonic : String)
  /-- A RawFrame of the given length, below five, for `DECODE` or a step of it (R79: "refuse anything
  shorter"). Raised by `DECODE`, `DEC.ID` and `DEC.SLICE`; safe. -/
  | shortFrame (len : Nat)
  /-- `FRAME` of an empty payload, outside its domain (R93). Raised by `FRAME`; safe. -/
  | emptyPayload
deriving DecidableEq, Repr

/-- The machine right after reset (R26, R111): `(Idle, [])`, output event `none`, empty trace, the
parameters at their reference values (R6). DESIGN CHOICE (log 1, 4, 6): no byte is waiting, one
consumer is registered with an empty inbox, and the locals hold `initial`'s values; unsafe. -/
def State.reset : State :=
  { params := Params.reference, fs := .idle, buf := [], input := [], event := .none, trace := [],
    inboxes := [[]], feedResult := .none, dec := DecScratch.initial, stuffOut := [] }

end Sys2Proof.Machine
end

