-- ==== Sys2Proof/Machine/Ops.lean ====
section
/-! DEFINITION. The named operations over the buffer, the ports and the state that the meanings are
built from. -/

namespace Sys2Proof.Machine

/-- The byte at an address of the buffer; an address at or beyond the length holds nothing (R27). -/
def readByte (buf : Bytes) (a : Nat) : Option Byte :=
  buf[a]?

/-- `MemRead(addr, n)`, defined only inside the buffer (R8, R30). -/
def memRead (buf : Bytes) (addr n : Nat) : Option Bytes :=
  if addr + n ≤ buf.length then some (slice buf addr (addr + n)) else none

/-- The buffer as address and byte pairs. DESIGN CHOICE (log 5): State holds only the bytes, since
R14 asks for a list whose index is the address, and this is the view of it as cells; safe. -/
def memCells (buf : Bytes) : List Host.Cell :=
  buf.zipIdx.map (fun x => (x.2, x.1))

/-- The canonical form of the cells: the addresses are 0, 1, 2, ... in order, so strictly rising and
without a gap (R27). -/
def memWf (cells : List Host.Cell) : Bool :=
  cells.map Prod.fst == List.range cells.length

/-- The append: the one store of the block, at address `len(buf)` (R29). -/
def State.store (s : State) (b : Byte) : State :=
  { s with buf := s.buf ++ [b] }

/-- Clear the buffer and return to `Idle`: what ends every frame, and what plays the part of taking a
trap in this block (R31, R105). It saves nothing and nothing returns from it (R106). -/
def State.toIdle (s : State) : State :=
  { s with buf := [], fs := .idle }

/-- The value `FEED` hands back (R54). -/
def State.feedReturn (s : State) (r : FeedResult) : State :=
  { s with feedResult := r }

/-- Change the Decoder's scratch only: the Decoder never touches `fs` or `buf` (R78). -/
def State.mapDec (s : State) (g : DecScratch → DecScratch) : State :=
  { s with dec := g s.dec }

/-- An event as an entry of the output trace: `none` leaves no entry (R19). -/
def OutEvent.entries : OutEvent → List OutEvent
  | .none => []
  | .packet p => [.packet p]
  | .tooLong => [.tooLong]

/-- `emit`: the output event of the step, and its entry in the output trace (R8, R19). -/
def State.emit (s : State) (e : OutEvent) : State :=
  { s with event := e, trace := s.trace ++ e.entries }

/-- Hand an event to every consumer, once each; no order among them is expressed (R82, D6). -/
def State.hand (s : State) (e : OutEvent) : State :=
  { s with inboxes := s.inboxes.map (fun box => box ++ [e]) }

/-- End of a step: the wire and the Decoder's scratch do not survive it (R11, R15). -/
def State.endStep (s : State) : State :=
  { s with feedResult := .none, dec := DecScratch.initial }

/-- Accept the next byte of the input port, if one is presented (R19). -/
def State.accept (s : State) : Option (Byte × State) :=
  match s.input with
  | [] => none
  | b :: rest => some (b, { s with input := rest })

/-- No byte is presented: the block holds its state (R88, R109), and the event of the last step, a
pulse (D6), is over. DEDUCED (log 2): the spec has no step without a byte; safe. -/
def State.hold (s : State) : State :=
  { s with event := .none }

/-- The site at which an input byte is classified inside `FEED`: the framing state, the length after
the append and the parity of the count after it (R48). -/
def State.site (s : State) (b : Byte) : Site :=
  .assembler s.fs (s.buf.length + 1) (countParity (s.buf ++ [b]))

/-- The site of the length guard after an append (R48, R62). -/
def State.guardSite (s : State) : Site :=
  .guard s.buf.length s.params.maxFrameLen

/-- An operation whose row has conditions: its effect where they hold, and otherwise the refusal that
names it (R48, R53; log 7). -/
def selectedWhen (holds : Bool) (mnemonic : String) (t : State) : Host.Outcome State Fault Refusal :=
  if holds then .next t else .refused (.notSelected mnemonic)

end Sys2Proof.Machine
end

