-- ==== Sys2Proof/Machine/Assembler.lean ====
section
/-! DEFINITION. The FrameAssembler: `FEED` and the operations of the groups `assembler.Idle` and
`assembler.InFrame` (spec/40_frame_assembler.md, R54 to R67). -/

namespace Sys2Proof.Machine

/-- The effect of `IDLE.START`: the start marker is the first byte of a new buffer (R56). -/
def startFrame (s : State) : State :=
  ({ s with buf := [DLE], fs := .inFrame } : State).feedReturn .none

/-- The effect of an operation in a frame that neither completes nor abandons it, the byte having
been appended (R58, R59, R60). -/
def stayInFrame (s : State) : State :=
  s.feedReturn .none

/-- The effect of completing a frame, the `ETX` having been appended: the RawFrame is a copy of the
whole buffer, then the buffer is cleared (R61). -/
def completeFrame (s : State) : State :=
  s.toIdle.feedReturn (.frame s.buf)

/-- The effect of the length guard: the partial buffer is discarded (R62). -/
def abandonFrame (s : State) : State :=
  s.toIdle.feedReturn .tooLong

/-- `FEED(b)` (R54), total on every byte and state. -/
def feedByte (b : Byte) (s : State) : State :=
  match s.fs with
  | .idle => if b = DLE then startFrame s else s.feedReturn .none
  | .inFrame =>
    let t := s.store b
    if completes b t.buf then completeFrame t
    else if overflows t.params t.buf then abandonFrame t
    else stayInFrame t

/-- `FEED` (R54). -/
def execFeed (b : Byte) (s : State) : Host.Outcome State Fault Refusal :=
  .next (feedByte b s)

/-- `IDLE.START` (R56). -/
def execIdleStart (s : State) : Host.Outcome State Fault Refusal :=
  selectedWhen (s.site DLE).isIdle "IDLE.START" (startFrame s)

/-- `IDLE.DROP` (R57): the byte is discarded and nothing changes; `feed` returns `none`. -/
def execIdleDrop (b : Byte) (s : State) : Host.Outcome State Fault Refusal :=
  selectedWhen ((s.site b).isIdle && b != DLE) "IDLE.DROP" (s.feedReturn .none)

/-- `FRAME.ETX.SHORT` (R59): the count is not taken. -/
def execFrameEtxShort (s : State) : Host.Outcome State Fault Refusal :=
  selectedWhen (s.site ETX).isShort "FRAME.ETX.SHORT" (stayInFrame (s.store ETX))

/-- `FRAME.ETX.DATA` (R60). -/
def execFrameEtxData (s : State) : Host.Outcome State Fault Refusal :=
  selectedWhen ((s.site ETX).isFull false) "FRAME.ETX.DATA" (stayInFrame (s.store ETX))

/-- `FRAME.ETX.END` (R61). -/
def execFrameEtxEnd (s : State) : Host.Outcome State Fault Refusal :=
  selectedWhen ((s.site ETX).isFull true) "FRAME.ETX.END" (completeFrame (s.store ETX))

/-- `FRAME.APPEND` (R58). -/
def execFrameAppend (b : Byte) (s : State) : Host.Outcome State Fault Refusal :=
  selectedWhen ((s.site b).isInFrame && b != ETX) "FRAME.APPEND" (stayInFrame (s.store b))

/-- `FRAME.OVERFLOW` (R62): selected in a frame whose length has reached the bound. -/
def execFrameOverflow (s : State) : Host.Outcome State Fault Refusal :=
  selectedWhen (s.fs == .inFrame && s.guardSite.isOverflow) "FRAME.OVERFLOW" (abandonFrame s)

end Sys2Proof.Machine
end

