-- ==== Sys2Proof/Machine/Decoder.lean ====
section
/-! DEFINITION. The Decoder: `DECODE`, its steps, and the four operations of the unstuffing scan
(spec/41_decoder.md, R68 to R80). -/

namespace Sys2Proof.Machine

/-- The scratch at the start of a `DECODE` of `f`: afresh, whatever an earlier frame left (R15). -/
def decStart (f : Bytes) : DecScratch :=
  { DecScratch.initial with frame := f }

/-- `id <- f[1]` (R69). -/
def decTakeId (d : DecScratch) : DecScratch :=
  { d with id := frameId d.frame }

/-- `p <- f[2 .. L-2)` (R70). -/
def decTakeSlice (d : DecScratch) : DecScratch :=
  { d with p := framePayload d.frame }

/-- `out <- out ++ [c]` (R71). -/
def scanCopy (c : Byte) (d : DecScratch) : DecScratch :=
  { d with out := d.out ++ [c] }

/-- `failed <- true` (R72). -/
def scanFail (d : DecScratch) : DecScratch :=
  { d with failed := true }

/-- `out <- out ++ [0x10] ; pend <- true` (R73). -/
def scanDle1 (d : DecScratch) : DecScratch :=
  { d with out := d.out ++ [DLE], pend := true }

/-- `pend <- false` (R74). -/
def scanDle2 (d : DecScratch) : DecScratch :=
  { d with pend := false }

/-- The scan operation that applies to one payload byte (R48, R68). -/
def scanByte (c : Byte) (d : DecScratch) : DecScratch :=
  if c = DLE then
    if d.pend then scanDle2 d else scanDle1 d
  else
    if d.pend then scanFail d else scanCopy c d

/-- One turn of the loop: the byte's operation, and the index advances by one (R21). DESIGN CHOICE
(log 14): it advances past a failing byte too; safe, since the index reaches no output. -/
def scanNext (c : Byte) (d : DecScratch) : DecScratch :=
  { scanByte c d with k := d.k + 1 }

/-- The loop of the scan: left to right while not failed (R68). -/
def scanBytes : Bytes → DecScratch → DecScratch
  | [], d => d
  | c :: rest, d => if d.failed then d else scanBytes rest (scanNext c d)

/-- The end of the scan: with `END_FLAG_CHECK = false` nothing; with `true` a pending flag is a
failure (R68, R75, D3). -/
def scanEnd (endFlagCheck : Bool) (d : DecScratch) : DecScratch :=
  if endFlagCheck && d.pend then { d with failed := true } else d

/-- The valid Packet of a scratch: the id, the unstuffed data, and the whole RawFrame (R77). -/
def validPacket (d : DecScratch) : Packet :=
  { isValid := true, id := d.id, data := d.out, rawData := d.frame }

/-- The Packet a finished scan gives: the invalid Packet when it failed (R76), else the valid one
(R77). -/
def packetOf (d : DecScratch) : Packet :=
  if d.failed then Packet.invalid else validPacket d

/-- The scratch when the scan of `f` has ended (R68). -/
def scanFrame (endFlagCheck : Bool) (f : Bytes) : DecScratch :=
  let d := decTakeSlice (decTakeId (decStart f))
  scanEnd endFlagCheck (scanBytes d.p d)

/-- The Packet of a RawFrame: it depends on `f` and the constant `END_FLAG_CHECK` alone (R78). -/
def decodePacket (endFlagCheck : Bool) (f : Bytes) : Packet :=
  packetOf (scanFrame endFlagCheck f)

/-- The scratch `DECODE` ends with: the scan's, and the Packet it returns (R68). -/
def decodeScratch (endFlagCheck : Bool) (f : Bytes) : DecScratch :=
  { scanFrame endFlagCheck f with packet := some (decodePacket endFlagCheck f) }

/-- The effect of `DECODE(f)` on the state: Decoder scratch only (R68, R78). -/
def decodeFrame (f : Bytes) (s : State) : State :=
  s.mapDec (fun _ => decodeScratch s.params.endFlagCheck f)

/-- A step of `DECODE` that cuts the RawFrame: outside the domain of at least five bytes it is
refused (R79). -/
def onRawFrame (f : Bytes) (t : State) : Host.Outcome State Fault Refusal :=
  if minFrame ≤ f.length then .next t else .refused (.shortFrame f.length)

/-- `DECODE` (R68), on its domain (R79). -/
def execDecode (f : Bytes) (s : State) : Host.Outcome State Fault Refusal :=
  onRawFrame f (decodeFrame f s)

/-- `DEC.ID` (R69), of the RawFrame under decoding. -/
def execDecId (s : State) : Host.Outcome State Fault Refusal :=
  onRawFrame s.dec.frame (s.mapDec decTakeId)

/-- `DEC.SLICE` (R70), of the RawFrame under decoding. -/
def execDecSlice (s : State) : Host.Outcome State Fault Refusal :=
  onRawFrame s.dec.frame (s.mapDec decTakeSlice)

/-- `U.COPY` (R71). -/
def execUCopy (c : Byte) (s : State) : Host.Outcome State Fault Refusal :=
  selectedWhen (c != DLE && !s.dec.pend) "U.COPY" (s.mapDec (scanCopy c))

/-- `U.FAIL` (R72). -/
def execUFail (c : Byte) (s : State) : Host.Outcome State Fault Refusal :=
  selectedWhen (c != DLE && s.dec.pend) "U.FAIL" (s.mapDec scanFail)

/-- `U.DLE1` (R73). -/
def execUDle1 (s : State) : Host.Outcome State Fault Refusal :=
  selectedWhen (!s.dec.pend) "U.DLE1" (s.mapDec scanDle1)

/-- `U.DLE2` (R74). -/
def execUDle2 (s : State) : Host.Outcome State Fault Refusal :=
  selectedWhen s.dec.pend "U.DLE2" (s.mapDec scanDle2)

/-- `DEC.ENDSCAN` (R75): the scan has passed the last byte of the slice without failing. -/
def execDecEndscan (s : State) : Host.Outcome State Fault Refusal :=
  selectedWhen (!s.dec.failed && s.dec.k == s.dec.p.length) "DEC.ENDSCAN"
    (s.mapDec (scanEnd s.params.endFlagCheck))

/-- `DEC.INVALID` (R76): the id, the partial output and the frame are dropped from the result. -/
def execDecInvalid (s : State) : Host.Outcome State Fault Refusal :=
  selectedWhen s.dec.failed "DEC.INVALID"
    (s.mapDec (fun d => { d with packet := some Packet.invalid }))

/-- `DEC.VALID` (R77). -/
def execDecValid (s : State) : Host.Outcome State Fault Refusal :=
  selectedWhen (!s.dec.failed) "DEC.VALID"
    (s.mapDec (fun d => { d with packet := some (validPacket d) }))

end Sys2Proof.Machine
end

