-- ==== Sys2Proof/Machine/Dispatcher.lean ====
section
/-! DEFINITION. The Dispatcher, the block's top level: `DISPATCH`, `DELIVER`, `FEEDCHUNK`
(spec/42_dispatcher.md, R81 to R88). -/

namespace Sys2Proof.Machine

/-- The effect of `DELIVER(pkt)`: every consumer is handed the Packet, valid or invalid (R82). -/
def deliverPacket (pkt : Packet) (s : State) : State :=
  s.hand (.packet pkt)

/-- `DISPATCH(b)`, one step of the block (R81): `FEED`; on a RawFrame `DECODE`, `DELIVER` and the
Packet as the event; on the overflow outcome the event `TooLong`, which goes to the same consumers
(D6, D18); otherwise no event. -/
def dispatchByte (b : Byte) (s : State) : State :=
  let r := feedByte b s
  match r.feedResult with
  | .none => (r.emit .none).endStep
  | .frame f =>
    let pkt := decodePacket r.params.endFlagCheck f
    ((deliverPacket pkt (decodeFrame f r)).emit (.packet pkt)).endStep
  | .tooLong => ((r.hand .tooLong).emit .tooLong).endStep

/-- `FEEDCHUNK(s)`: `DISPATCH` of each byte in order (R85). -/
def dispatchChunk (bs : Bytes) (s : State) : State :=
  bs.foldl (fun t b => dispatchByte b t) s

/-- `DISPATCH` (R81). -/
def execDispatch (b : Byte) (s : State) : Host.Outcome State Fault Refusal :=
  .next (dispatchByte b s)

/-- `DELIVER` (R82): nothing in the block is written. -/
def execDeliver (pkt : Packet) (s : State) : Host.Outcome State Fault Refusal :=
  .next (deliverPacket pkt s)

/-- `FEEDCHUNK` (R85). -/
def execFeedchunk (bs : Bytes) (s : State) : Host.Outcome State Fault Refusal :=
  .next (dispatchChunk bs s)

end Sys2Proof.Machine
end

