-- ==== Sys2Proof/Machine/Stuffer.lean ====
section
/-! DEFINITION. The stuffing function and the frame generator: pure functions that define the wire
format; the block never calls them (spec/43_stuffer.md, R89 to R96). -/

namespace Sys2Proof.Machine

/-- The bytes one payload byte is sent as: a `DLE` doubled (R91), any other byte itself (R90). -/
def stuffByte (c : Byte) : Bytes :=
  if c = DLE then [DLE, DLE] else [c]

/-- `STUFF(p)` (R92). -/
def stuffBytes : Bytes → Bytes
  | [] => []
  | c :: rest => stuffByte c ++ stuffBytes rest

/-- `FRAME(i, p)`; the id is not stuffed (R93). -/
def frameBytes (i : Byte) (p : Bytes) : Bytes :=
  [DLE, i] ++ stuffBytes p ++ [DLE, ETX]

/-- The sequence a stuffing function returns (R92, R93; log 6). -/
def State.stuffReturn (s : State) (out : Bytes) : State :=
  { s with stuffOut := out }

/-- `S.COPY`: `out <- out ++ [c]` (R90). -/
def execSCopy (c : Byte) (s : State) : Host.Outcome State Fault Refusal :=
  selectedWhen (c != DLE) "S.COPY" (s.stuffReturn (s.stuffOut ++ [c]))

/-- `S.DOUBLE`: `out <- out ++ [0x10, 0x10]` (R91). -/
def execSDouble (s : State) : Host.Outcome State Fault Refusal :=
  .next (s.stuffReturn (s.stuffOut ++ [DLE, DLE]))

/-- `STUFF` (R92), total. -/
def execStuff (p : Bytes) (s : State) : Host.Outcome State Fault Refusal :=
  .next (s.stuffReturn (stuffBytes p))

/-- `FRAME` (R93), on its domain: an empty payload lies outside it. -/
def execFrame (i : Byte) (p : Bytes) (s : State) : Host.Outcome State Fault Refusal :=
  if 1 ≤ p.length then .next (s.stuffReturn (frameBytes i p)) else .refused .emptyPayload

end Sys2Proof.Machine
end

