-- ==== Sys2Proof/Machine/Dispatch.lean ====
section
/-! DEFINITION. One arm per operation of the table, in its order; each arm is one direct call of that
operation's meaning. -/

namespace Sys2Proof.Machine

def exec (i : Instr) (s : State) : Host.Outcome State Fault Refusal :=
  match i with
  | .feed b => Sys2Proof.Machine.execFeed b s
  | .idleStart => Sys2Proof.Machine.execIdleStart s
  | .idleDrop b => Sys2Proof.Machine.execIdleDrop b s
  | .frameEtxShort => Sys2Proof.Machine.execFrameEtxShort s
  | .frameEtxData => Sys2Proof.Machine.execFrameEtxData s
  | .frameEtxEnd => Sys2Proof.Machine.execFrameEtxEnd s
  | .frameAppend b => Sys2Proof.Machine.execFrameAppend b s
  | .frameOverflow => Sys2Proof.Machine.execFrameOverflow s
  | .decode f => Sys2Proof.Machine.execDecode f s
  | .decId => Sys2Proof.Machine.execDecId s
  | .decSlice => Sys2Proof.Machine.execDecSlice s
  | .uDle1 => Sys2Proof.Machine.execUDle1 s
  | .uDle2 => Sys2Proof.Machine.execUDle2 s
  | .uCopy c => Sys2Proof.Machine.execUCopy c s
  | .uFail c => Sys2Proof.Machine.execUFail c s
  | .decEndscan => Sys2Proof.Machine.execDecEndscan s
  | .decInvalid => Sys2Proof.Machine.execDecInvalid s
  | .decValid => Sys2Proof.Machine.execDecValid s
  | .dispatch b => Sys2Proof.Machine.execDispatch b s
  | .deliver pkt => Sys2Proof.Machine.execDeliver pkt s
  | .feedchunk bs => Sys2Proof.Machine.execFeedchunk bs s
  | .sDouble => Sys2Proof.Machine.execSDouble s
  | .sCopy c => Sys2Proof.Machine.execSCopy c s
  | .stuff p => Sys2Proof.Machine.execStuff p s
  | .frame k p => Sys2Proof.Machine.execFrame k p s

end Sys2Proof.Machine
end

