-- ==== Sys2Proof/Machine/Step.lean ====
section
/-! DEFINITION. One step of the block: accept a byte and run `DISPATCH` on it (R5, R81). -/

namespace Sys2Proof.Machine

/-- A step: the next byte of the input port selects `DISPATCH`, the one externally invoked operation
(R81, R107); when no byte is presented the block holds its state (R88, R109; log 2). -/
def step (s : State) : Host.Outcome State Fault Refusal :=
  match s.accept with
  | none => .next s.hold
  | some (b, t) => exec (.dispatch b) t

/-- Present the bytes of a table word on the input port before whatever waits there, so that the next
step accepts the first of them (log 1, log 12). -/
def State.withFetchWord (s : State) (nbits w : Nat) : State :=
  { s with input := bytesOfWord (wordLength nbits) w ++ s.input }

end Sys2Proof.Machine
end

