-- ==== Sys2Proof/Safety.lean ====
section
/-! DEFINITION. What the claims are stated in: the invariants of R25, the shape of a RawFrame (R65),
the conditions under which an operation applies, and reference forms of the scan and of a stream,
written apart from the machine's own functions. -/

namespace Sys2Proof.Machine

/-- The invariants of R25, with the constraint of R6 on the bound. -/
structure State.Inv (s : State) : Prop where
  /-- The bound, when there is one, is at least five (R6). -/
  params_wf : s.params.wf = true
  /-- INV1: `fs = Idle` if and only if the buffer is empty. -/
  idle_iff_empty : s.fs = .idle ↔ s.buf = []
  /-- INV2: in a frame the first byte is the start marker. -/
  starts_with_dle : s.fs = .inFrame → s.buf[0]? = some DLE
  /-- INV3: no `ETX` at index 4 or later had an odd count. -/
  no_missed_end : s.fs = .inFrame → ∀ j, 4 ≤ j → s.buf[j]? = some ETX →
    cnt s.buf countFrom (j + 1) % 2 = 0
  /-- INV4: the buffer is below the bound. -/
  below_bound : ∀ n, s.params.maxFrameLen = some n → s.buf.length < n

/-- Nothing of a step's wire or scratch is left (R11, R15). -/
def State.Quiet (s : State) : Prop :=
  s.feedResult = .none ∧ s.dec = DecScratch.initial

/-- Every consumer has been handed exactly the output trace (R82, R83). -/
def State.Delivered (s : State) : Prop :=
  ∀ box ∈ s.inboxes, box = s.trace

/-- Every Packet of the output trace has the shape of R17 and R18. -/
def State.TraceWf (s : State) : Prop :=
  ∀ p, OutEvent.packet p ∈ s.trace → p.wf = true

/-- What R65 says of every RawFrame `FEED` returns, the bound being `bound`. -/
structure RawFrameShape (bound : Option Nat) (f : Bytes) : Prop where
  long_enough : 5 ≤ f.length
  first_dle : f[0]? = some 0x10
  last_etx : f[f.length - 1]? = some 0x03
  odd_count : cnt f 2 f.length % 2 = 1
  no_earlier_end : ∀ j, 4 ≤ j → j < f.length - 1 → f[j]? = some 0x03 → cnt f 2 (j + 1) % 2 = 0
  within_bound : ∀ n, bound = some n → f.length ≤ n

/-- The operations that may write `fs` or `buf`: those of the FrameAssembler, and the two composite
operations that call `FEED` (R12, R13, R78, R87). -/
def writesFraming : Instr → Bool
  | .feed _ => true
  | .idleStart => true
  | .idleDrop _ => false
  | .frameEtxShort => true
  | .frameEtxData => true
  | .frameEtxEnd => true
  | .frameAppend _ => true
  | .frameOverflow => true
  | .decode _ => false
  | .decId => false
  | .decSlice => false
  | .uDle1 => false
  | .uDle2 => false
  | .uCopy _ => false
  | .uFail _ => false
  | .decEndscan => false
  | .decInvalid => false
  | .decValid => false
  | .dispatch _ => true
  | .deliver _ => false
  | .feedchunk _ => true
  | .sDouble => false
  | .sCopy _ => false
  | .stuff _ => false
  | .frame _ _ => false

/-- When an operation applies: the conditions of R47, R48 and R53 on the state and the operand, and
the domains of R79 and R93. -/
def State.Applies (s : State) : Instr → Prop
  | .feed _ => True
  | .idleStart => s.fs = .idle
  | .idleDrop b => s.fs = .idle ∧ b ≠ 0x10
  | .frameEtxShort => s.fs = .inFrame ∧ s.buf.length + 1 < 5
  | .frameEtxData =>
      s.fs = .inFrame ∧ 5 ≤ s.buf.length + 1 ∧ cnt s.buf 2 s.buf.length % 2 = 0
  | .frameEtxEnd =>
      s.fs = .inFrame ∧ 5 ≤ s.buf.length + 1 ∧ cnt s.buf 2 s.buf.length % 2 = 1
  | .frameAppend b => s.fs = .inFrame ∧ b ≠ 0x03
  | .frameOverflow => s.fs = .inFrame ∧ ∃ n, s.params.maxFrameLen = some n ∧ n ≤ s.buf.length
  | .decode f => 5 ≤ f.length
  | .decId => 5 ≤ s.dec.frame.length
  | .decSlice => 5 ≤ s.dec.frame.length
  | .uDle1 => s.dec.pend = false
  | .uDle2 => s.dec.pend = true
  | .uCopy c => c ≠ 0x10 ∧ s.dec.pend = false
  | .uFail c => c ≠ 0x10 ∧ s.dec.pend = true
  | .decEndscan => s.dec.failed = false ∧ s.dec.k = s.dec.p.length
  | .decInvalid => s.dec.failed = true
  | .decValid => s.dec.failed = false
  | .dispatch _ => True
  | .deliver _ => True
  | .feedchunk _ => True
  | .sDouble => True
  | .sCopy c => c ≠ 0x10
  | .stuff _ => True
  | .frame _ p => 1 ≤ p.length

/-- Unstuffing by pairs: each doubled `10 10` stands for one `10`, a `10` before another byte is
malformed (R43, R50, R80). A lone `10` at the very end is kept, or malformed when the end of the scan
is checked (R75). -/
def unstuffPairs (endFlagCheck : Bool) : Bytes → Option Bytes
  | [] => some []
  | [c] => if c = 0x10 ∧ endFlagCheck then none else some [c]
  | c :: d :: rest =>
    if c = 0x10 then
      if d = 0x10 then (unstuffPairs endFlagCheck rest).map (0x10 :: ·) else none
    else (unstuffPairs endFlagCheck (d :: rest)).map (c :: ·)

/-- How many Packets a trace holds. -/
def packetCount : List OutEvent → Nat
  | [] => 0
  | .packet _ :: rest => packetCount rest + 1
  | .none :: rest => packetCount rest
  | .tooLong :: rest => packetCount rest

/-- One piece of a stream of R95: a gap, then the frame of an id and a payload. -/
structure StreamPart where
  gap : Bytes
  id : Byte
  payload : Bytes
deriving DecidableEq, Repr

/-- The conditions of R95 on a piece: no start marker in the gap, a payload that is not empty, and a
frame within the bound. -/
def StreamPart.Fits (bound : Option Nat) (q : StreamPart) : Prop :=
  0x10 ∉ q.gap ∧ 1 ≤ q.payload.length ∧
    ∀ n, bound = some n → (frameBytes q.id q.payload).length ≤ n

/-- The bytes of a piece on the wire (R95). -/
def StreamPart.bytes (q : StreamPart) : Bytes :=
  q.gap ++ frameBytes q.id q.payload

/-- The event a piece gives (R95). -/
def StreamPart.event (q : StreamPart) : OutEvent :=
  .packet { isValid := true, id := q.id, data := q.payload, rawData := frameBytes q.id q.payload }

end Sys2Proof.Machine
end

