-- ==== Sys2Proof/Certificates/Slice0/Obligations.lean ====
section
/-! DEFINITION. The statements for the provers, in the order of OBLIGATIONS.json. Bytes and lengths
the spec fixes are written as literals, so that a statement does not borrow the model's constants. -/

open Sys2Proof Sys2Proof.Machine

/-! ### The FrameAssembler -/

/-- R56: in `Idle` a `0x10` selects `IDLE.START`, which makes the buffer `[10]`, enters the frame and
returns `none`; nothing else changes. -/
def Obligations.IdleStartOpensFrame : Prop :=
  ∀ s : State, s.fs = .idle →
    decodeAt (s.site 0x10) [0x10] = .ok .idleStart ∧
    exec .idleStart s = .next { s with buf := [0x10], fs := .inFrame, feedResult := .none }

/-- R57: in `Idle` any other byte selects `IDLE.DROP`, which returns `none` and changes nothing. -/
def Obligations.IdleDropDiscardsByte : Prop :=
  ∀ (s : State) (b : Byte), s.fs = .idle → b ≠ 0x10 →
    decodeAt (s.site b) [b] = .ok (.idleDrop b) ∧
    exec (.idleDrop b) s = .next { s with feedResult := .none }

/-- R58: in a frame any byte but `0x03` selects `FRAME.APPEND`, which appends it and returns `none`;
the count parity changes exactly when the byte is `0x10` and lands at index 2 or later. -/
def Obligations.FrameAppendExtendsBuffer : Prop :=
  ∀ (s : State) (b : Byte), s.fs = .inFrame → b ≠ 0x03 →
    decodeAt (s.site b) [b] = .ok (.frameAppend b) ∧
    exec (.frameAppend b) s = .next { s with buf := s.buf ++ [b], feedResult := .none } ∧
    (countParity (s.buf ++ [b]) ≠ countParity s.buf ↔ b = 0x10 ∧ 2 ≤ s.buf.length)

/-- R59: in a frame an `0x03` that brings the length to less than five selects `FRAME.ETX.SHORT`,
which appends it and returns `none`. -/
def Obligations.EtxShortAppends : Prop :=
  ∀ s : State, s.fs = .inFrame → s.buf.length + 1 < 5 →
    decodeAt (s.site 0x03) [0x03] = .ok .frameEtxShort ∧
    exec .frameEtxShort s = .next { s with buf := s.buf ++ [0x03], feedResult := .none }

/-- R60: in a frame an `0x03` that brings the length to five or more with an even count selects
`FRAME.ETX.DATA`, which appends it, stays in the frame and returns `none`. -/
def Obligations.EtxDataAppends : Prop :=
  ∀ s : State, s.fs = .inFrame → 5 ≤ s.buf.length + 1 →
    cnt (s.buf ++ [0x03]) 2 (s.buf.length + 1) % 2 = 0 →
    decodeAt (s.site 0x03) [0x03] = .ok .frameEtxData ∧
    exec .frameEtxData s = .next { s with buf := s.buf ++ [0x03], feedResult := .none }

/-- R61: in a frame an `0x03` that brings the length to five or more with an odd count selects
`FRAME.ETX.END`, whatever the byte before it: the whole buffer is returned as the RawFrame, the
buffer is cleared and the block is `Idle`. `FEED` does the same whatever the bound (corner case (d)). -/
def Obligations.EtxEndCompletesFrame : Prop :=
  ∀ s : State, s.fs = .inFrame → 5 ≤ s.buf.length + 1 →
    cnt (s.buf ++ [0x03]) 2 (s.buf.length + 1) % 2 = 1 →
    decodeAt (s.site 0x03) [0x03] = .ok .frameEtxEnd ∧
    exec .frameEtxEnd s =
      .next { s with buf := [], fs := .idle, feedResult := .frame (s.buf ++ [0x03]) } ∧
    exec (.feed 0x03) s =
      .next { s with buf := [], fs := .idle, feedResult := .frame (s.buf ++ [0x03]) }

/-- R62: with no bound `FRAME.OVERFLOW` never applies; with a bound `N` it applies in a frame whose
length has reached `N`, discards the buffer, returns to `Idle` and returns `TooLong`. When it fires and
what form the outcome has are the spec's own decisions D4 and D18; the refusal's form is log 7. -/
def Obligations.OverflowAbandonsFrame : Prop :=
  ∀ s : State, s.fs = .inFrame →
    (s.params.maxFrameLen = none →
      exec .frameOverflow s = .refused (.notSelected "FRAME.OVERFLOW")) ∧
    ∀ n, s.params.maxFrameLen = some n → n ≤ s.buf.length →
      decodeAt s.guardSite [] = .ok .frameOverflow ∧
      exec .frameOverflow s = .next { s with buf := [], fs := .idle, feedResult := .tooLong }

/-- R62, R104, by the spec's own decision D4: in `FEED` the guard fires exactly on a byte that does not
complete the frame and brings the length to the bound; a byte that completes a frame, one of exactly the
bound's length among them, returns the whole buffer as the RawFrame, clears it and returns to `Idle`. -/
def Obligations.GuardFiresAfterCompletionTest : Prop :=
  ∀ (s : State) (b : Byte) (n : Nat), s.Inv → s.fs = .inFrame →
    s.params.maxFrameLen = some n →
    ∃ t, exec (.feed b) s = .next t ∧
      (t.feedResult = .tooLong ↔
        s.buf.length + 1 = n ∧
          ¬(b = 0x03 ∧ 5 ≤ s.buf.length + 1 ∧ cnt (s.buf ++ [b]) 2 (s.buf.length + 1) % 2 = 1)) ∧
      (t.feedResult = .tooLong → t = { s with buf := [], fs := .idle, feedResult := .tooLong }) ∧
      (b = 0x03 → 5 ≤ s.buf.length + 1 → cnt (s.buf ++ [b]) 2 (s.buf.length + 1) % 2 = 1 →
        t = { s with buf := [], fs := .idle, feedResult := .frame (s.buf ++ [b]) })

/-- R48, R54: `FEED` of a byte runs the operation the byte selects, and after it, when the frame is
neither complete nor below the bound, the length guard. -/
def Obligations.FeedRunsSelectedOperation : Prop :=
  ∀ (s : State) (b : Byte), ∃ i t r, decodeAt (s.site b) [b] = .ok i ∧ exec i s = .next t ∧
    exec (.feed b) s = .next r ∧
    exec (.feed b) s =
      if s.fs = .inFrame ∧ t.feedResult = .none ∧ t.guardSite.isOverflow = true
      then exec .frameOverflow t else .next t

/-- R48: exactly one of the six FrameAssembler rows applies to a byte, exactly one of the four scan
rows to a payload byte, and exactly one of the two stuffing rows. -/
def Obligations.ExactlyOneByteRowApplies : Prop :=
  ∀ b : Byte,
    (∀ fs len parity, ∃! i : Instr,
      i.wf = true ∧ i.selectedAt (.assembler fs len parity) = true ∧ encode i = [b]) ∧
    (∀ pend, ∃! i : Instr, i.wf = true ∧ i.selectedAt (.unstuff pend) = true ∧ encode i = [b]) ∧
    (∃! i : Instr, i.wf = true ∧ i.selectedAt .stuff = true ∧ encode i = [b])

/-- R44: which row a byte selects depends on its class alone, at every site. -/
def Obligations.SelectionDependsOnByteClass : Prop :=
  ∀ (site : Site) (b c : Byte) (i j : Instr), byteClass b = byteClass c →
    decodeAt site [b] = .ok i → decodeAt site [c] = .ok j → i.mnemonic = j.mnemonic

/-- R29: each appending operation stores its byte at address `len(buf)` and leaves every other
address as it was. -/
def Obligations.AppendStoresAtLengthOnly : Prop :=
  ∀ (s t : State) (i : Instr) (b : Byte),
    (i = .frameAppend b ∨ (i = .frameEtxShort ∧ b = 0x03) ∨ (i = .frameEtxData ∧ b = 0x03)) →
    exec i s = .next t →
    readByte t.buf s.buf.length = some b ∧ t.buf.length = s.buf.length + 1 ∧
    ∀ a, a ≠ s.buf.length → readByte t.buf a = readByte s.buf a

/-- R12, R78: an operation outside the FrameAssembler and the composites that call it leaves `fs` and
every byte of the buffer as they were. -/
def Obligations.OnlyAssemblerWritesFraming : Prop :=
  ∀ (i : Instr) (s t : State), writesFraming i = false → exec i s = .next t →
    t.fs = s.fs ∧ t.buf.length = s.buf.length ∧ ∀ a, readByte t.buf a = readByte s.buf a

/-- The shape of every RawFrame `FEED` returns: R65, which the spec marks as its own inference. -/
def Obligations.FeedReturnsRawFrameShape : Prop :=
  ∀ (s t : State) (b : Byte) (f : Bytes), s.Inv → exec (.feed b) s = .next t →
    t.feedResult = .frame f → RawFrameShape s.params.maxFrameLen f

/-- R58, R99, R116: with no bound, bytes that are never `0x03` only make the buffer of the current frame
grow, one byte each, and produce nothing. -/
def Obligations.UnterminatedFrameGrows : Prop :=
  ∀ (bs : Bytes) (s : State), s.fs = .inFrame → s.params.maxFrameLen = none → 0x03 ∉ bs →
    ∃ t, exec (.feedchunk bs) s = .next t ∧ t.fs = .inFrame ∧ t.buf = s.buf ++ bs ∧
      t.trace = s.trace ∧ t.inboxes = s.inboxes

/-- The parity lock, from R117, which the spec marks as its own inference. In a frame with at least two
bytes, an even count and no bound, a following well-formed frame whose id is neither `0x10` nor `0x03`
and whose payload holds no `0x03` is swallowed whole, and the count is even again. -/
def Obligations.ParityLockSwallowsFrame : Prop :=
  ∀ (s : State) (i : Byte) (p : Bytes), s.fs = .inFrame → 2 ≤ s.buf.length →
    countParity s.buf = false → s.params.maxFrameLen = none →
    i ≠ 0x10 → i ≠ 0x03 → 0x03 ∉ p → 1 ≤ p.length →
    ∃ w t, exec (.frame i p) s = .next w ∧ exec (.feedchunk w.stuffOut) s = .next t ∧
      t.fs = .inFrame ∧ t.buf = s.buf ++ w.stuffOut ∧ countParity t.buf = false ∧
      t.trace = s.trace

/-! ### The Decoder -/

/-- R71: `U.COPY` appends the byte to the output. -/
def Obligations.UCopyAppendsByte : Prop :=
  ∀ (s : State) (c : Byte), c ≠ 0x10 → s.dec.pend = false →
    decodeAt (.unstuff s.dec.pend) [c] = .ok (.uCopy c) ∧
    exec (.uCopy c) s = .next { s with dec := { s.dec with out := s.dec.out ++ [c] } }

/-- R72: `U.FAIL` sets the failure flag, and whatever payload bytes follow, the Packet is then the
invalid Packet. -/
def Obligations.UFailMakesPacketInvalid : Prop :=
  ∀ (s : State) (c : Byte), c ≠ 0x10 → s.dec.pend = true →
    decodeAt (.unstuff s.dec.pend) [c] = .ok (.uFail c) ∧
    ∃ t, exec (.uFail c) s = .next t ∧
      t = { s with dec := { s.dec with failed := true } } ∧
      ∀ rest check, packetOf (scanEnd check (scanBytes rest t.dec)) =
        { isValid := false, id := 0, data := [], rawData := [] }

/-- R73: `U.DLE1` appends a `0x10` to the output and sets the pending flag. -/
def Obligations.UDle1CopiesAndSetsPend : Prop :=
  ∀ s : State, s.dec.pend = false →
    decodeAt (.unstuff s.dec.pend) [0x10] = .ok .uDle1 ∧
    exec .uDle1 s =
      .next { s with dec := { s.dec with out := s.dec.out ++ [0x10], pend := true } }

/-- R74: `U.DLE2` clears the pending flag and copies nothing; a run of `m` consecutive `0x10` yields
`ceil(m/2)` of them and leaves the flag at `odd(m)`. -/
def Obligations.UDle2ClearsPend : Prop :=
  (∀ s : State, s.dec.pend = true →
    decodeAt (.unstuff s.dec.pend) [0x10] = .ok .uDle2 ∧
    exec .uDle2 s = .next { s with dec := { s.dec with pend := false } }) ∧
  ∀ (m : Nat) (d : DecScratch), d.pend = false → d.failed = false →
    scanBytes (List.replicate m 0x10) d =
      { d with out := d.out ++ List.replicate ((m + 1) / 2) 0x10, pend := odd m, k := d.k + m }

/-- R69: `DEC.ID` takes the byte at index 1 of the RawFrame. -/
def Obligations.DecIdTakesSecondByte : Prop :=
  ∀ s : State, 5 ≤ s.dec.frame.length →
    decodeAt .decodeId [] = .ok .decId ∧
    ∃ v, s.dec.frame[1]? = some v ∧
      exec .decId s = .next { s with dec := { s.dec with id := v } }

/-- R70: `DEC.SLICE` takes the bytes at indices 2 up to the last two, by index: `MemRead(2, L-4)`. -/
def Obligations.DecSliceCutsPayload : Prop :=
  ∀ s : State, 5 ≤ s.dec.frame.length →
    decodeAt .decodeSlice [] = .ok .decSlice ∧
    ∃ p, exec .decSlice s = .next { s with dec := { s.dec with p := p } } ∧
      p.length = s.dec.frame.length - 4 ∧
      memRead s.dec.frame 2 (s.dec.frame.length - 4) = some p ∧
      ∀ k, k < s.dec.frame.length - 4 → p[k]? = s.dec.frame[k + 2]?

/-- R75 and the spec's own decision D3: after the last payload byte `DEC.ENDSCAN` does nothing with
`END_FLAG_CHECK = false`; with `true` a pending flag is a failure. -/
def Obligations.DecEndscanFollowsParameter : Prop :=
  ∀ s : State, s.dec.failed = false → s.dec.k = s.dec.p.length →
    decodeAt .scanEnd [] = .ok .decEndscan ∧
    (s.params.endFlagCheck = false → exec .decEndscan s = .next s) ∧
    (s.params.endFlagCheck = true →
      exec .decEndscan s = .next { s with dec := { s.dec with failed := s.dec.pend } })

/-- R76: after a failed scan `DEC.INVALID` returns the invalid Packet. -/
def Obligations.DecInvalidReturnsInvalidPacket : Prop :=
  ∀ s : State, s.dec.failed = true →
    decodeAt (.verdict s.dec.failed) [] = .ok .decInvalid ∧
    exec .decInvalid s = .next { s with dec := { s.dec with
      packet := some { isValid := false, id := 0, data := [], rawData := [] } } }

/-- R77: after a scan that did not fail `DEC.VALID` returns the id, the unstuffed data and the whole
RawFrame. -/
def Obligations.DecValidReturnsFrame : Prop :=
  ∀ s : State, s.dec.failed = false →
    decodeAt (.verdict s.dec.failed) [] = .ok .decValid ∧
    exec .decValid s = .next { s with dec := { s.dec with
      packet := some { isValid := true, id := s.dec.id, data := s.dec.out,
                       rawData := s.dec.frame } } }

/-- R68 and R78, in the form of the spec's own inference R80: `DECODE` of five bytes or more writes
Decoder scratch only, and what it writes depends on the frame and `END_FLAG_CHECK` alone: its Packet is
the valid Packet of the pairwise unstuffed payload, or the invalid Packet where unstuffing fails. -/
def Obligations.DecodeUnstuffsByPairs : Prop :=
  ∀ (f : Bytes) (check : Bool), 5 ≤ f.length →
    decodeAt .decoderPort f = .ok (.decode f) ∧
    ∃ (d : DecScratch) (v : Byte) (p : Bytes),
      (∀ s : State, s.params.endFlagCheck = check →
        exec (.decode f) s = .next { s with dec := d }) ∧
      f[1]? = some v ∧ memRead f 2 (f.length - 4) = some p ∧
      d.packet = some
        (match unstuffPairs check p with
         | some data => { isValid := true, id := v, data := data, rawData := f }
         | none => { isValid := false, id := 0, data := [], rawData := [] })

/-- R79, the spec's own decision D10 (log 8): `DECODE` of fewer than five bytes is refused, and selected
by no word. -/
def Obligations.DecodeRefusesShortFrame : Prop :=
  ∀ (s : State) (f : Bytes), f.length < 5 →
    exec (.decode f) s = .refused (.shortFrame f.length) ∧
    decodeAt .decoderPort f = .error .shortFrame

/-- R80 (d), which the spec marks as its own inference: for a RawFrame from the FrameAssembler whose scan
does not fail, the pending flag is left set exactly when the byte before the last is not `0x10`. -/
def Obligations.PendLeftSetIffTrailerMissing : Prop :=
  ∀ (s t u : State) (b : Byte) (f : Bytes), exec (.feed b) s = .next t →
    t.feedResult = .frame f → exec (.decode f) t = .next u → u.dec.failed = false →
    (u.dec.pend = true ↔ f[f.length - 2]? ≠ some 0x10)

/-! ### The Dispatcher and the step -/

/-- R81: `DISPATCH` is `FEED`, then on a RawFrame `DECODE` and `DELIVER` with the Packet as the event,
on the overflow outcome the event `TooLong`, and otherwise no event. That `TooLong` is handed to every
consumer too is the spec's own decision D6 and D18 (log 4); that the wire and the scratch are back at
their initial values is the model's form of R11 (log 6). -/
def Obligations.DispatchComposesParts : Prop :=
  ∀ (s : State) (b : Byte), ∃ r, exec (.feed b) s = .next r ∧
    (r.feedResult = .none →
      exec (.dispatch b) s =
        .next { r with event := .none, feedResult := .none, dec := DecScratch.initial }) ∧
    (∀ f, r.feedResult = .frame f → ∃ d pkt e,
      exec (.decode f) r = .next d ∧ d.dec.packet = some pkt ∧
      exec (.deliver pkt) d = .next e ∧
      exec (.dispatch b) s =
        .next { e with event := .packet pkt, trace := e.trace ++ [.packet pkt],
                       feedResult := .none, dec := DecScratch.initial }) ∧
    (r.feedResult = .tooLong →
      exec (.dispatch b) s =
        .next { r with event := .tooLong, trace := r.trace ++ [.tooLong],
                       inboxes := r.inboxes.map (· ++ [.tooLong]),
                       feedResult := .none, dec := DecScratch.initial })

/-- R82: `DELIVER` hands the Packet, valid or invalid, to every consumer exactly once and writes
nothing else. -/
def Obligations.DeliverReachesEveryConsumer : Prop :=
  ∀ (s : State) (pkt : Packet),
    (pkt.wf = true → decodeAt (.delivery pkt) [] = .ok (.deliver pkt)) ∧
    ∃ t, exec (.deliver pkt) s = .next t ∧ t = { s with inboxes := t.inboxes } ∧
      t.inboxes.length = s.inboxes.length ∧
      ∀ (j : Nat) (box : List OutEvent), s.inboxes[j]? = some box → t.inboxes[j]? = some (box ++ [OutEvent.packet pkt])

/-- R85: `FEEDCHUNK` is `DISPATCH` of each byte in order; the empty chunk does nothing, and a chunk
boundary anywhere has no effect. -/
def Obligations.FeedchunkFoldsDispatch : Prop :=
  (∀ s : State, exec (.feedchunk []) s = .next s) ∧
  (∀ (s : State) (b : Byte), exec (.feedchunk [b]) s = exec (.dispatch b) s) ∧
  ∀ (s : State) (x y : Bytes), decodeAt .chunkPort (x ++ y) = .ok (.feedchunk (x ++ y)) ∧
    ∃ t, exec (.feedchunk x) s = .next t ∧
      exec (.feedchunk (x ++ y)) s = exec (.feedchunk y) t

/-- R85, S1: running the machine one byte a step over a waiting stream gives the state that the same
bytes as one chunk give, whatever waits behind them. The waiting stream is the model's own field
(log 1). -/
def Obligations.StepsEqualChunk : Prop :=
  ∀ (bs rest : Bytes) (s : State), s.input = bs ++ rest →
    ∃ t, exec (.feedchunk bs) { s with input := rest } = .next t ∧
      Host.Core.run Sys2Proof.core bs.length s = .next t

/-- R5, R81: a step with a byte waiting runs `DISPATCH` of it, the operation the decoder reads at the
input port, on the state with that byte accepted. The waiting bytes are the model's own field (log 1). -/
def Obligations.StepRunsDispatch : Prop :=
  ∀ (s : State) (b : Byte) (rest : Bytes), s.input = b :: rest →
    decodeAt .port [b] = .ok (.dispatch b) ∧
    step s = exec (.dispatch b) { s with input := rest }

/-- R47, R48, R81: a step with a byte waiting runs the FrameAssembler operation that the decoder reads
from the byte, and around it what `FEED` and `DISPATCH` add (the waiting bytes, the inboxes and the
cleared scratch are the model's form, log 1, 4 and 6). -/
def Obligations.StepRunsDecodedOperation : Prop :=
  ∀ (s : State) (b : Byte) (rest : Bytes), s.input = b :: rest →
    ∃ i t, decodeAt (s.site b) [b] = .ok i ∧ i.wf = true ∧
      exec i { s with input := rest } = .next t ∧
      (t.feedResult = .none → ¬(s.fs = .inFrame ∧ t.guardSite.isOverflow = true) →
        step s = .next { t with event := .none, feedResult := .none, dec := DecScratch.initial }) ∧
      (t.feedResult = .none → s.fs = .inFrame → t.guardSite.isOverflow = true →
        step s = .next { t with buf := [], fs := .idle, event := .tooLong,
                                trace := t.trace ++ [.tooLong],
                                inboxes := t.inboxes.map (· ++ [.tooLong]),
                                feedResult := .none, dec := DecScratch.initial }) ∧
      (∀ f, t.feedResult = .frame f → ∃ d pkt,
        exec (.decode f) t = .next d ∧ d.dec.packet = some pkt ∧
        step s = .next { t with event := .packet pkt, trace := t.trace ++ [.packet pkt],
                                inboxes := t.inboxes.map (· ++ [.packet pkt]),
                                feedResult := .none, dec := DecScratch.initial }) ∧
      t.feedResult ≠ .tooLong

/-- The model's choice (log 2), from R88 and R109: with no byte waiting the block holds its state. -/
def Obligations.StepWithoutInputHolds : Prop :=
  ∀ s : State, s.input = [] → step s = .next { s with event := .none }

/-- R100, R57: a byte other than `0x10` in `Idle` changes no framing state and emits nothing. That the
wire and the scratch are at their initial values afterwards is the model's form of R11 (log 6), and the
waiting bytes are the model's own field (log 1). -/
def Obligations.SpuriousByteIsSilent : Prop :=
  ∀ (s : State) (b : Byte) (rest : Bytes), s.fs = .idle → s.input = b :: rest → b ≠ 0x10 →
    step s = .next { s with input := rest, event := .none, feedResult := .none,
                            dec := DecScratch.initial }

/-- After a step that emits a Packet, valid or invalid, or `TooLong`, the framing state is the reset
state: R105, which the spec marks as its own inference. That nothing of the wire or the scratch is left
is the model's form of R11 (log 6). -/
def Obligations.EventLeavesResetFraming : Prop :=
  ∀ s t : State, step s = .next t → t.event ≠ .none →
    t.fs = .idle ∧ t.buf = [] ∧ t.feedResult = .none ∧ t.dec = DecScratch.initial

/-- R101, R104, by the spec's own decisions D4 and D18: `TooLong` is emitted only when `MAX_FRAME_LEN` is
set, and then no Packet is: the trace grows by that one event. -/
def Obligations.TooLongNeedsBound : Prop :=
  ∀ s t : State, step s = .next t → t.event = .tooLong →
    (∃ n, s.params.maxFrameLen = some n) ∧ t.trace = s.trace ++ [.tooLong]

/-- R84, whose bound the spec marks as its own inference, and Part 4 of spec/95_test_vectors.md: from a
framing state at reset, `n` input bytes give at most `floor(n / 5)` Packets, and fewer than five bytes
give no event at all. -/
def Obligations.AtMostOnePacketPerFiveBytes : Prop :=
  ∀ (bs : Bytes) (s : State), s.fs = .idle → s.buf = [] →
    ∃ t, exec (.feedchunk bs) s = .next t ∧
      packetCount t.trace ≤ packetCount s.trace + bs.length / 5 ∧
      (s.params.wf = true → bs.length < 5 → t.trace = s.trace)

/-- R86: what the consumers hold (the model's `inboxes`, log 4) has no effect on the block: two states
that differ only in the inboxes take steps that differ only in the inboxes. -/
def Obligations.ConsumersCannotAffectBlock : Prop :=
  ∀ (s : State) (boxes : List (List OutEvent)), ∃ t u,
    step s = .next t ∧ step { s with inboxes := boxes } = .next u ∧
    t = { u with inboxes := t.inboxes }

/-! ### The stuffing functions -/

/-- R90: `S.COPY` appends the byte as it is. -/
def Obligations.SCopyAppendsByte : Prop :=
  ∀ (s : State) (c : Byte), c ≠ 0x10 →
    decodeAt .stuff [c] = .ok (.sCopy c) ∧
    exec (.sCopy c) s = .next { s with stuffOut := s.stuffOut ++ [c] }

/-- R91: `S.DOUBLE` appends two `0x10`. -/
def Obligations.SDoubleAppendsPair : Prop :=
  ∀ s : State,
    decodeAt .stuff [0x10] = .ok .sDouble ∧
    exec .sDouble s = .next { s with stuffOut := s.stuffOut ++ [0x10, 0x10] }

/-- R92: `STUFF` doubles each `0x10` and keeps every other byte; it is additive over concatenation, its
length is the payload's plus the number of `0x10`, and a payload without `0x10` is unchanged. -/
def Obligations.StuffDoublesEachDle : Prop :=
  ∀ (s : State) (p q : Bytes),
    decodeAt .stuffPort p = .ok (.stuff p) ∧
    exec (.stuff p) s =
      .next { s with stuffOut := p.flatMap (fun c => if c = 0x10 then [0x10, 0x10] else [c]) } ∧
    stuffBytes (p ++ q) = stuffBytes p ++ stuffBytes q ∧
    (stuffBytes p).length = p.length + cnt p 0 p.length ∧
    (0x10 ∉ p → stuffBytes p = p)

/-- R93: `FRAME` of a payload that is not empty is the start marker, the id unstuffed, the stuffed
payload and the trailer, at least five bytes. An empty payload is outside its domain; that the model
refuses it by name is log 8. -/
def Obligations.FrameBuildsWireShape : Prop :=
  ∀ (s : State) (i : Byte) (p : Bytes),
    (1 ≤ p.length →
      decodeAt .framePort (i :: p) = .ok (.frame i p) ∧
      ∃ e t, exec (.stuff p) s = .next e ∧ exec (.frame i p) s = .next t ∧
        t = { s with stuffOut := [0x10, i] ++ e.stuffOut ++ [0x10, 0x03] } ∧
        t.stuffOut.length = p.length + cnt p 0 p.length + 4 ∧ 5 ≤ t.stuffOut.length) ∧
    (p.length = 0 → exec (.frame i p) s = .refused .emptyPayload)

/-- `STUFF` and `FRAME` are injective: different payloads or ids give different sequences (R96, which the
spec marks as its own inference). -/
def Obligations.StuffAndFrameAreInjective : Prop :=
  (∀ (s t : State) (p q : Bytes), exec (.stuff p) s = .next t → exec (.stuff q) s = .next t →
    p = q) ∧
  ∀ (s t : State) (i j : Byte) (p q : Bytes),
    exec (.frame i p) s = .next t → exec (.frame j q) s = .next t → i = j ∧ p = q

/-! ### Round trips -/

/-- Decoding the frame of any id and any payload that is not empty gives them back, with the flag
clear at the end of the scan, for either value of `END_FLAG_CHECK`: R94, which the spec marks as its own
inference. -/
def Obligations.DecodeInvertsFrame : Prop :=
  ∀ (s : State) (i : Byte) (p : Bytes), 1 ≤ p.length →
    ∃ w u, exec (.frame i p) s = .next w ∧ exec (.decode w.stuffOut) s = .next u ∧
      u.dec.packet = some { isValid := true, id := i, data := p, rawData := w.stuffOut } ∧
      u.dec.pend = false ∧ u.dec.failed = false

/-- A well-formed frame within the bound, fed from `(Idle, [])`, gives no event before its last byte, exactly its valid
Packet on the last byte, and ends in `(Idle, [])`: R66 and R95, which the spec marks as its own
inferences. The inboxes are the model's form of the consumers (log 4); that the wire and the scratch are
at their initial values at the end, and that `FRAME` returns in a field, is the model's form of R11
(log 6). -/
def Obligations.FrameRoundTripsEndToEnd : Prop :=
  ∀ (s : State) (i : Byte) (p : Bytes), s.fs = .idle → s.buf = [] → 1 ≤ p.length →
    (∀ n, s.params.maxFrameLen = some n → p.length + cnt p 0 p.length + 4 ≤ n) →
    ∃ w v t pkt, exec (.frame i p) s = .next w ∧
      pkt = { isValid := true, id := i, data := p, rawData := w.stuffOut } ∧
      exec (.feedchunk w.stuffOut.dropLast) s = .next v ∧
      v.trace = s.trace ∧ v.inboxes = s.inboxes ∧ v.fs = .inFrame ∧
      exec (.feedchunk w.stuffOut) s = .next t ∧
      t = { s with event := .packet pkt, trace := s.trace ++ [.packet pkt],
                   inboxes := s.inboxes.map (· ++ [.packet pkt]),
                   feedResult := .none, dec := DecScratch.initial }

/-- A stream of well-formed frames with gaps that hold no `0x10`, fed from `(Idle, [])`, gives exactly
the corresponding valid Packets in order and ends in `(Idle, [])`: R95, which the spec marks as its own
inference. -/
def Obligations.StreamGivesItsPacketsInOrder : Prop :=
  ∀ (parts : List StreamPart) (last : Bytes) (s : State), s.fs = .idle → s.buf = [] →
    (∀ q ∈ parts, q.Fits s.params.maxFrameLen) → 0x10 ∉ last →
    ∃ t, exec (.feedchunk (parts.flatMap StreamPart.bytes ++ last)) s = .next t ∧
      t.fs = .idle ∧ t.buf = [] ∧ t.trace = s.trace ++ parts.map StreamPart.event

/-! ### Encoding -/

/-- The decoder reads words of the spec's table as the operations they stand for (R48, R53). -/
def Obligations.TableWordsDecode : Prop :=
  decodeAt (.assembler .idle 1 false) [0b00010000] = .ok .idleStart ∧
  decodeAt (.assembler .idle 1 false) [0b00000011] = .ok (.idleDrop 0x03) ∧
  decodeAt (.assembler .inFrame 4 true) [0b00000011] = .ok .frameEtxShort ∧
  decodeAt (.assembler .inFrame 5 false) [0b00000011] = .ok .frameEtxData ∧
  decodeAt (.assembler .inFrame 5 true) [0b00000011] = .ok .frameEtxEnd ∧
  decodeAt (.assembler .inFrame 5 true) [0b00010000] = .ok (.frameAppend 0x10) ∧
  decodeAt (.unstuff false) [0b00010000] = .ok .uDle1 ∧
  decodeAt (.unstuff true) [0b00010000] = .ok .uDle2 ∧
  decodeAt .stuff [0b00010000] = .ok .sDouble

/-- R48, R53: decode and encode agree, for every operation. At every site that selects it, decoding the
encoding of an operation with operands in their domain gives the operation back, and every operation has
a site. Sites, and the words of the rows no byte selects, are the model's form (log 13). -/
def Obligations.DecodeOfEncodeIsIdentity : Prop :=
  ∀ i : Instr, i.wf = true →
    (∃ site, i.selectedAt site = true) ∧
    ∀ site, i.selectedAt site = true → decodeAt site (encode i) = .ok i

/-- The other direction (R48, R53; the form of sites and words is log 13): whatever the decoder reads is
selected at the site, has operands in their domain, and encodes to the very bytes that were read. -/
def Obligations.EncodeOfDecodeIsIdentity : Prop :=
  ∀ (site : Site) (word : Bytes) (i : Instr), decodeAt site word = .ok i →
    i.wf = true ∧ i.selectedAt site = true ∧ encode i = word

/-! ### Whole machine -/

/-- R26: the reset state as the spec gives it. -/
def Obligations.ResetIsIdleAndEmpty : Prop :=
  State.reset.fs = .idle ∧ State.reset.buf = [] ∧ State.reset.event = .none ∧
  State.reset.trace = [] ∧ State.reset.dec.pend = false ∧ State.reset.dec.out = [] ∧
  State.reset.dec.failed = false ∧ State.reset.dec.k = 0

/-- At reset the invariants of R25 hold (the spec's own inference), the parameters are R6's reference
values carried in the state (log 3), nothing of a step is left (log 6), and every consumer holds the
empty trace (log 4). -/
def Obligations.ResetHasInvariantsAndReferenceParams : Prop :=
  State.reset.Inv ∧ State.reset.Quiet ∧ State.reset.Delivered ∧ State.reset.TraceWf ∧
  State.reset.params = { maxFrameLen := none, endFlagCheck := false }

/-- Every step keeps the invariants INV1 to INV4 of R25 (the spec's own inference), for every setting of
the bound. -/
def Obligations.StepKeepsFramingInvariant : Prop :=
  ∀ s t : State, s.Inv → step s = .next t → t.Inv

/-- R11, R15 in the model's form (log 6): no wire and no scratch survives a step; a step that accepts a
byte leaves none whatever it found. -/
def Obligations.StepLeavesNoScratch : Prop :=
  ∀ s t : State, step s = .next t → (s.Quiet ∨ s.input ≠ [] → t.Quiet)

/-- R82, R83 in the model's form (log 4): every step keeps that each consumer has been handed exactly the
output trace. -/
def Obligations.StepKeepsConsumersInStepWithTrace : Prop :=
  ∀ s t : State, s.Delivered → step s = .next t → t.Delivered

/-- R17, and R18's shape, which the spec marks as its own inference: every step keeps that each Packet of
the trace is the one fixed invalid value, or a valid one whose fields agree with its RawFrame. -/
def Obligations.StepKeepsPacketsWellFormed : Prop :=
  ∀ s t : State, s.Inv → s.TraceWf → step s = .next t → t.TraceWf

/-- R47, R48, R102: an operation gives a next state exactly where the conditions of its rule hold; no
operation faults. That it is refused elsewhere is the model's choice (log 7, log 8). -/
def Obligations.OperationsCompleteExactlyWhereTheyApply : Prop :=
  ∀ (i : Instr) (s : State),
    (s.Applies i → ∃ t, exec i s = .next t) ∧
    (¬s.Applies i → ∃ r, exec i s = .refused r)

/-- R6, R113 in the model's form (log 1, 3, 4): no operation changes the parameters or the set of
consumers, and none but the step accepts an input byte. -/
def Obligations.ParametersNeverChange : Prop :=
  ∀ (i : Instr) (s t : State), exec i s = .next t →
    t.params = s.params ∧ t.inboxes.length = s.inboxes.length ∧ t.input = s.input

/-- R19, R102: a step always gives a next state: the block accepts a byte in every state and never
refuses, faults or delays one (with no byte waiting it holds, log 2). -/
def Obligations.StepNeverStops : Prop :=
  ∀ s : State, ∃ t, step s = .next t ∧ t.input = s.input.tail ∧ t.params = s.params
end

