-- ==== Sys2Proof/Laws/Counting.lean ====
section
/-! SUPPORT. Slices, the DLE count and its parity under an append (R7, R24, R55). -/

namespace Sys2Proof.Machine

theorem slice_length (s : Bytes) (a b : Nat) : (slice s a b).length = min b s.length - a := by
  simp [slice]

theorem slice_getElem? (s : Bytes) (a b k : Nat) :
    (slice s a b)[k]? = if a + k < b then s[a + k]? else none := by
  simp [slice, List.getElem?_drop, List.getElem?_take]

theorem slice_whole (s : Bytes) (a : Nat) : slice s a s.length = s.drop a := by
  simp [slice]

/-- A slice that ends inside the first part does not see the second. -/
theorem slice_append_of_le (s t : Bytes) (a b : Nat) (h : b ≤ s.length) :
    slice (s ++ t) a b = slice s a b := by
  simp [slice, List.take_append_of_le_length h]

theorem cnt_append_of_le (s t : Bytes) (a b : Nat) (h : b ≤ s.length) :
    cnt (s ++ t) a b = cnt s a b := by
  simp [cnt, slice_append_of_le s t a b h]

theorem cnt_whole (s : Bytes) (a : Nat) : cnt s a s.length = (s.drop a).count DLE := by
  simp [cnt, slice_whole]

/-- The count after an append: one more exactly for a `DLE` at an index in the range (R24, R58). -/
theorem cnt_append_one (s : Bytes) (b : Byte) (a : Nat) :
    cnt (s ++ [b]) a (s.length + 1) =
      cnt s a s.length + (if b = DLE ∧ a ≤ s.length then 1 else 0) := by
  have h : s.length + 1 = (s ++ [b]).length := by simp
  rw [h, cnt_whole, cnt_whole, List.drop_append, List.count_append]
  by_cases ha : a ≤ s.length
  · have : a - s.length = 0 := by omega
    by_cases hb : b = DLE <;> simp [this, ha, hb]
  · have : a - s.length ≠ 0 := by omega
    obtain ⟨k, hk⟩ : ∃ k, a - s.length = k + 1 := ⟨a - s.length - 1, by omega⟩
    simp [hk, ha]

/-- An `ETX` adds nothing to the count: `c = cnt(buf, 2, len(buf) - 1)` is the same number (R55). -/
theorem cnt_append_etx (s : Bytes) (a : Nat) :
    cnt (s ++ [ETX]) a (s.length + 1) = cnt s a s.length := by
  rw [cnt_append_one]
  simp [ETX, DLE]

theorem countParity_eq (s : Bytes) : countParity s = odd ((s.drop 2).count DLE) := by
  simp [countParity, cnt_whole, countFrom]

/-- R24: the parity bit that toggles on each `DLE` appended at index 2 or later equals the parity of
the recounted buffer. -/
theorem countParity_append_one (s : Bytes) (b : Byte) :
    countParity (s ++ [b]) = (countParity s != (b == DLE && decide (2 ≤ s.length))) := by
  unfold countParity
  have h : (s ++ [b]).length = s.length + 1 := by simp
  rw [h, cnt_append_one, countFrom]
  by_cases hb : b = DLE
  · subst hb
    rcases Nat.mod_two_eq_zero_or_one (cnt s 2 s.length) with hn | hn <;>
      by_cases hl : 2 ≤ s.length <;> simp [hl, odd, Nat.add_mod, hn]
  · simp [hb, beq_eq_false_iff_ne.mpr hb]

/-- R24: `IDLE.START` clears the parity bit. -/
theorem countParity_start : countParity [DLE] = false := by decide

theorem odd_iff (n : Nat) : odd n = true ↔ n % 2 = 1 := by simp [odd]

theorem odd_false_iff (n : Nat) : odd n = false ↔ n % 2 = 0 := by
  simp [odd]

/-- The completion test in the words of R54. -/
theorem completes_iff (b : Byte) (buf : Bytes) :
    completes b buf = true ↔
      b = ETX ∧ 5 ≤ buf.length ∧ cnt buf countFrom buf.length % 2 = 1 := by
  simp only [completes, countParity, odd, Bool.and_eq_true, beq_iff_eq, decide_eq_true_eq, and_assoc]

/-- The length guard in the words of R54. -/
theorem overflows_iff (p : Params) (buf : Bytes) :
    overflows p buf = true ↔ ∃ n, p.maxFrameLen = some n ∧ n ≤ buf.length := by
  unfold overflows
  cases p.maxFrameLen <;> simp

end Sys2Proof.Machine
end

