-- ==== Sys2Proof/Laws/Decoding.lean ====
section
/-! SUPPORT. The table's rows read as cases: what a byte selects at each BYTE site (R48). -/

namespace Sys2Proof

/-- A mask of eight ones keeps the byte. -/
theorem and_exact_mask (b : Byte) : b &&& 255#8 = b := by
  have h : (255#8) = BitVec.allOnes 8 := by decide
  rw [h, BitVec.and_allOnes]

theorem decodeByte_idle (len : Nat) (parity : Bool) (b : Byte) :
    decodeByte (.assembler .idle len parity) b =
      .ok (if b = DLE then .idleStart else .idleDrop b) := by
  by_cases h : b = DLE
  · subst h
    simp [decodeByte, exactRows, catchAllRows, ByteRow.applies, Site.isIdle, DLE]
  · have h' : ¬ b = 16#8 := h
    simp [decodeByte, exactRows, catchAllRows, ByteRow.applies, Site.isIdle, Site.isShort,
      Site.isFull, h, h', and_exact_mask]

theorem decodeByte_inFrame (len : Nat) (parity : Bool) (b : Byte) :
    decodeByte (.assembler .inFrame len parity) b =
      .ok (if b = ETX then
             if len < 5 then .frameEtxShort else if parity then .frameEtxEnd else .frameEtxData
           else .frameAppend b) := by
  by_cases h : b = ETX
  · subst h
    by_cases hl : len < 5
    · simp [decodeByte, exactRows, catchAllRows, ByteRow.applies, Site.isIdle, Site.isShort, ETX,
        minFrame, hl]
    · have hl' : 5 ≤ len := by omega
      cases parity <;>
        simp [decodeByte, exactRows, catchAllRows, ByteRow.applies, Site.isIdle, Site.isShort,
          Site.isFull, ETX, minFrame, hl, hl']
  · have h' : ¬ b = 3#8 := h
    simp [decodeByte, exactRows, catchAllRows, ByteRow.applies, Site.isIdle, Site.isInFrame, h, h',
      and_exact_mask]

theorem decodeByte_unstuff (pend : Bool) (b : Byte) :
    decodeByte (.unstuff pend) b =
      .ok (if b = DLE then (if pend then .uDle2 else .uDle1)
           else (if pend then .uFail b else .uCopy b)) := by
  by_cases h : b = DLE
  · subst h
    cases pend <;>
      simp [decodeByte, exactRows, catchAllRows, ByteRow.applies, Site.isIdle, Site.isShort,
        Site.isFull, DLE]
  · have h' : ¬ b = 16#8 := h
    cases pend <;>
      simp [decodeByte, exactRows, catchAllRows, ByteRow.applies, Site.isIdle, Site.isShort,
        Site.isFull, Site.isInFrame, h, h', and_exact_mask]

theorem decodeByte_stuff (b : Byte) :
    decodeByte .stuff b = .ok (if b = DLE then .sDouble else .sCopy b) := by
  by_cases h : b = DLE
  · subst h
    simp [decodeByte, exactRows, catchAllRows, ByteRow.applies, Site.isIdle, Site.isShort,
      Site.isFull, DLE]
  · have h' : ¬ b = 16#8 := h
    simp [decodeByte, exactRows, catchAllRows, ByteRow.applies, Site.isIdle, Site.isShort,
      Site.isFull, Site.isInFrame, h, h', and_exact_mask]

/-- A one-byte site reads exactly one byte. -/
theorem oneByte_ok_iff (op : Byte → Except DecodeError Instr) (word : Bytes) (i : Instr) :
    oneByte op word = .ok i ↔ ∃ b, word = [b] ∧ op b = .ok i := by
  match word with
  | [] => simp [oneByte]
  | [b] => simp [oneByte]
  | _ :: _ :: _ => simp [oneByte]

/-- A site that takes no byte reads the empty word only. -/
theorem noByte_ok_iff (op : Except DecodeError Instr) (word : Bytes) (i : Instr) :
    noByte op word = .ok i ↔ word = [] ∧ op = .ok i := by
  cases word <;> simp [noByte]

/-- The frame generator's site reads an id byte and a payload that is not empty. -/
theorem decodeFrameOperands_ok_iff (word : Bytes) (i : Instr) :
    decodeFrameOperands word = .ok i ↔
      ∃ k c p, word = k :: c :: p ∧ i = .frame k (c :: p) := by
  match word with
  | [] => simp [decodeFrameOperands]
  | [k] => simp [decodeFrameOperands]
  | k :: c :: p =>
    simp only [decodeFrameOperands, Except.ok.injEq, List.cons.injEq]
    constructor
    · rintro rfl
      exact ⟨k, c, p, ⟨rfl, rfl, rfl⟩, rfl⟩
    · rintro ⟨_, _, _, ⟨rfl, rfl, rfl⟩, rfl⟩
      rfl

/-- The scan of `DECODE` applies to a payload byte what the scan operation the byte selects does
(R48, R68). -/
theorem scan_operation_is_scanByte (c : Byte) (s : Machine.State) :
    ∃ i, decodeAt (.unstuff s.dec.pend) [c] = .ok i ∧
      Machine.exec i s = .next (s.mapDec (Machine.scanByte c)) := by
  refine ⟨_, decodeByte_unstuff s.dec.pend c, ?_⟩
  by_cases hc : c = DLE <;> cases hp : s.dec.pend <;>
    simp [hc, hp, Machine.exec, Machine.execUCopy, Machine.execUFail, Machine.execUDle1,
      Machine.execUDle2, Machine.selectedWhen, Machine.State.mapDec, Machine.scanByte]

/-- The last step of `DECODE` builds the Packet that the verdict's operation builds (R68, R76, R77). -/
theorem verdict_operation_is_packetOf (s : Machine.State) :
    ∃ i, decodeAt (.verdict s.dec.failed) [] = .ok i ∧
      Machine.exec i s =
        .next (s.mapDec (fun d => { d with packet := some (Machine.packetOf d) })) := by
  refine ⟨_, rfl, ?_⟩
  cases hf : s.dec.failed <;>
    simp [hf, Machine.exec, Machine.execDecInvalid, Machine.execDecValid, Machine.selectedWhen,
      Machine.State.mapDec, Machine.packetOf]

end Sys2Proof
end

