-- ==== Sys2Proof/Laws/State.lean ====
section
/-! SUPPORT. One lemma per field per update of the state, so that no later proof unfolds a record
update. -/

namespace Sys2Proof.Machine

variable (s : State)

/-! `State.store` -/

@[simp] theorem State.store_params (b : Byte) : (s.store b).params = s.params := rfl
@[simp] theorem State.store_fs (b : Byte) : (s.store b).fs = s.fs := rfl
@[simp] theorem State.store_buf (b : Byte) : (s.store b).buf = s.buf ++ [b] := rfl
@[simp] theorem State.store_input (b : Byte) : (s.store b).input = s.input := rfl
@[simp] theorem State.store_event (b : Byte) : (s.store b).event = s.event := rfl
@[simp] theorem State.store_trace (b : Byte) : (s.store b).trace = s.trace := rfl
@[simp] theorem State.store_inboxes (b : Byte) : (s.store b).inboxes = s.inboxes := rfl
@[simp] theorem State.store_feedResult (b : Byte) : (s.store b).feedResult = s.feedResult := rfl
@[simp] theorem State.store_dec (b : Byte) : (s.store b).dec = s.dec := rfl
@[simp] theorem State.store_stuffOut (b : Byte) : (s.store b).stuffOut = s.stuffOut := rfl

/-! `State.toIdle` -/

@[simp] theorem State.toIdle_params : (s.toIdle).params = s.params := rfl
@[simp] theorem State.toIdle_fs : (s.toIdle).fs = .idle := rfl
@[simp] theorem State.toIdle_buf : (s.toIdle).buf = [] := rfl
@[simp] theorem State.toIdle_input : (s.toIdle).input = s.input := rfl
@[simp] theorem State.toIdle_event : (s.toIdle).event = s.event := rfl
@[simp] theorem State.toIdle_trace : (s.toIdle).trace = s.trace := rfl
@[simp] theorem State.toIdle_inboxes : (s.toIdle).inboxes = s.inboxes := rfl
@[simp] theorem State.toIdle_feedResult : (s.toIdle).feedResult = s.feedResult := rfl
@[simp] theorem State.toIdle_dec : (s.toIdle).dec = s.dec := rfl
@[simp] theorem State.toIdle_stuffOut : (s.toIdle).stuffOut = s.stuffOut := rfl

/-! `State.feedReturn` -/

@[simp] theorem State.feedReturn_params (r : FeedResult) : (s.feedReturn r).params = s.params := rfl
@[simp] theorem State.feedReturn_fs (r : FeedResult) : (s.feedReturn r).fs = s.fs := rfl
@[simp] theorem State.feedReturn_buf (r : FeedResult) : (s.feedReturn r).buf = s.buf := rfl
@[simp] theorem State.feedReturn_input (r : FeedResult) : (s.feedReturn r).input = s.input := rfl
@[simp] theorem State.feedReturn_event (r : FeedResult) : (s.feedReturn r).event = s.event := rfl
@[simp] theorem State.feedReturn_trace (r : FeedResult) : (s.feedReturn r).trace = s.trace := rfl
@[simp] theorem State.feedReturn_inboxes (r : FeedResult) : (s.feedReturn r).inboxes = s.inboxes := rfl
@[simp] theorem State.feedReturn_feedResult (r : FeedResult) : (s.feedReturn r).feedResult = r := rfl
@[simp] theorem State.feedReturn_dec (r : FeedResult) : (s.feedReturn r).dec = s.dec := rfl
@[simp] theorem State.feedReturn_stuffOut (r : FeedResult) : (s.feedReturn r).stuffOut = s.stuffOut := rfl

/-! `State.mapDec` -/

@[simp] theorem State.mapDec_params (g : DecScratch → DecScratch) : (s.mapDec g).params = s.params := rfl
@[simp] theorem State.mapDec_fs (g : DecScratch → DecScratch) : (s.mapDec g).fs = s.fs := rfl
@[simp] theorem State.mapDec_buf (g : DecScratch → DecScratch) : (s.mapDec g).buf = s.buf := rfl
@[simp] theorem State.mapDec_input (g : DecScratch → DecScratch) : (s.mapDec g).input = s.input := rfl
@[simp] theorem State.mapDec_event (g : DecScratch → DecScratch) : (s.mapDec g).event = s.event := rfl
@[simp] theorem State.mapDec_trace (g : DecScratch → DecScratch) : (s.mapDec g).trace = s.trace := rfl
@[simp] theorem State.mapDec_inboxes (g : DecScratch → DecScratch) : (s.mapDec g).inboxes = s.inboxes := rfl
@[simp] theorem State.mapDec_feedResult (g : DecScratch → DecScratch) : (s.mapDec g).feedResult = s.feedResult := rfl
@[simp] theorem State.mapDec_dec (g : DecScratch → DecScratch) : (s.mapDec g).dec = g s.dec := rfl
@[simp] theorem State.mapDec_stuffOut (g : DecScratch → DecScratch) : (s.mapDec g).stuffOut = s.stuffOut := rfl

/-! `State.emit` -/

@[simp] theorem State.emit_params (e : OutEvent) : (s.emit e).params = s.params := rfl
@[simp] theorem State.emit_fs (e : OutEvent) : (s.emit e).fs = s.fs := rfl
@[simp] theorem State.emit_buf (e : OutEvent) : (s.emit e).buf = s.buf := rfl
@[simp] theorem State.emit_input (e : OutEvent) : (s.emit e).input = s.input := rfl
@[simp] theorem State.emit_event (e : OutEvent) : (s.emit e).event = e := rfl
@[simp] theorem State.emit_trace (e : OutEvent) : (s.emit e).trace = s.trace ++ e.entries := rfl
@[simp] theorem State.emit_inboxes (e : OutEvent) : (s.emit e).inboxes = s.inboxes := rfl
@[simp] theorem State.emit_feedResult (e : OutEvent) : (s.emit e).feedResult = s.feedResult := rfl
@[simp] theorem State.emit_dec (e : OutEvent) : (s.emit e).dec = s.dec := rfl
@[simp] theorem State.emit_stuffOut (e : OutEvent) : (s.emit e).stuffOut = s.stuffOut := rfl

/-! `State.hand` -/

@[simp] theorem State.hand_params (e : OutEvent) : (s.hand e).params = s.params := rfl
@[simp] theorem State.hand_fs (e : OutEvent) : (s.hand e).fs = s.fs := rfl
@[simp] theorem State.hand_buf (e : OutEvent) : (s.hand e).buf = s.buf := rfl
@[simp] theorem State.hand_input (e : OutEvent) : (s.hand e).input = s.input := rfl
@[simp] theorem State.hand_event (e : OutEvent) : (s.hand e).event = s.event := rfl
@[simp] theorem State.hand_trace (e : OutEvent) : (s.hand e).trace = s.trace := rfl
@[simp] theorem State.hand_inboxes (e : OutEvent) : (s.hand e).inboxes = s.inboxes.map (fun box => box ++ [e]) := rfl
@[simp] theorem State.hand_feedResult (e : OutEvent) : (s.hand e).feedResult = s.feedResult := rfl
@[simp] theorem State.hand_dec (e : OutEvent) : (s.hand e).dec = s.dec := rfl
@[simp] theorem State.hand_stuffOut (e : OutEvent) : (s.hand e).stuffOut = s.stuffOut := rfl

/-! `State.endStep` -/

@[simp] theorem State.endStep_params : (s.endStep).params = s.params := rfl
@[simp] theorem State.endStep_fs : (s.endStep).fs = s.fs := rfl
@[simp] theorem State.endStep_buf : (s.endStep).buf = s.buf := rfl
@[simp] theorem State.endStep_input : (s.endStep).input = s.input := rfl
@[simp] theorem State.endStep_event : (s.endStep).event = s.event := rfl
@[simp] theorem State.endStep_trace : (s.endStep).trace = s.trace := rfl
@[simp] theorem State.endStep_inboxes : (s.endStep).inboxes = s.inboxes := rfl
@[simp] theorem State.endStep_feedResult : (s.endStep).feedResult = .none := rfl
@[simp] theorem State.endStep_dec : (s.endStep).dec = DecScratch.initial := rfl
@[simp] theorem State.endStep_stuffOut : (s.endStep).stuffOut = s.stuffOut := rfl

/-! `State.hold` -/

@[simp] theorem State.hold_params : (s.hold).params = s.params := rfl
@[simp] theorem State.hold_fs : (s.hold).fs = s.fs := rfl
@[simp] theorem State.hold_buf : (s.hold).buf = s.buf := rfl
@[simp] theorem State.hold_input : (s.hold).input = s.input := rfl
@[simp] theorem State.hold_event : (s.hold).event = .none := rfl
@[simp] theorem State.hold_trace : (s.hold).trace = s.trace := rfl
@[simp] theorem State.hold_inboxes : (s.hold).inboxes = s.inboxes := rfl
@[simp] theorem State.hold_feedResult : (s.hold).feedResult = s.feedResult := rfl
@[simp] theorem State.hold_dec : (s.hold).dec = s.dec := rfl
@[simp] theorem State.hold_stuffOut : (s.hold).stuffOut = s.stuffOut := rfl

/-! `State.stuffReturn` -/

@[simp] theorem State.stuffReturn_params (out : Bytes) : (s.stuffReturn out).params = s.params := rfl
@[simp] theorem State.stuffReturn_fs (out : Bytes) : (s.stuffReturn out).fs = s.fs := rfl
@[simp] theorem State.stuffReturn_buf (out : Bytes) : (s.stuffReturn out).buf = s.buf := rfl
@[simp] theorem State.stuffReturn_input (out : Bytes) : (s.stuffReturn out).input = s.input := rfl
@[simp] theorem State.stuffReturn_event (out : Bytes) : (s.stuffReturn out).event = s.event := rfl
@[simp] theorem State.stuffReturn_trace (out : Bytes) : (s.stuffReturn out).trace = s.trace := rfl
@[simp] theorem State.stuffReturn_inboxes (out : Bytes) : (s.stuffReturn out).inboxes = s.inboxes := rfl
@[simp] theorem State.stuffReturn_feedResult (out : Bytes) : (s.stuffReturn out).feedResult = s.feedResult := rfl
@[simp] theorem State.stuffReturn_dec (out : Bytes) : (s.stuffReturn out).dec = s.dec := rfl
@[simp] theorem State.stuffReturn_stuffOut (out : Bytes) : (s.stuffReturn out).stuffOut = out := rfl

/-! `OutEvent.entries` -/

@[simp] theorem OutEvent.entries_none : OutEvent.none.entries = [] := rfl
@[simp] theorem OutEvent.entries_packet (p : Packet) : (OutEvent.packet p).entries = [.packet p] := rfl
@[simp] theorem OutEvent.entries_tooLong : OutEvent.tooLong.entries = [.tooLong] := rfl

end Sys2Proof.Machine
end

