-- ==== Sys2Proof/Laws/Memory.lean ====
section
/-! SUPPORT. The buffer as memory: what a read sees after an append or a clear, and that every memory
operation keeps the canonical form of the cells (R27, R29, R31). -/

namespace Sys2Proof.Machine

/-- The cells of any buffer are in the canonical form. -/
theorem memCells_wf (buf : Bytes) : memWf (memCells buf) = true := by
  have h : (memCells buf).map Prod.fst = List.range (memCells buf).length := by
    simp [memCells, List.map_map, Function.comp_def, List.zipIdx_map_snd, List.range_eq_range']
  simp [memWf, h]

/-- A read of an address is the cell listed for it. -/
theorem mem_memCells_iff (buf : Bytes) (a : Nat) (b : Byte) :
    (a, b) ∈ memCells buf ↔ readByte buf a = some b := by
  simp only [memCells, List.mem_map, Prod.mk.injEq, readByte, Prod.exists]
  constructor
  · rintro ⟨x, k, hm, rfl, rfl⟩
    simpa [List.mem_zipIdx_iff_getElem?] using hm
  · intro h
    exact ⟨b, a, by simpa [List.mem_zipIdx_iff_getElem?] using h, rfl, rfl⟩

/-- The append keeps the canonical form. -/
theorem store_memWf (s : State) (b : Byte) : memWf (memCells (s.store b).buf) = true :=
  memCells_wf _

/-- The clear keeps the canonical form. -/
theorem toIdle_memWf (s : State) : memWf (memCells s.toIdle.buf) = true :=
  memCells_wf _

theorem reset_memWf : memWf (memCells State.reset.buf) = true :=
  memCells_wf _

/-- A read after the append to its address gives the byte stored. -/
theorem readByte_store_self (s : State) (b : Byte) :
    readByte (s.store b).buf s.buf.length = some b := by
  simp [readByte]

/-- The append leaves every other address alone. -/
theorem readByte_store_other (s : State) (b : Byte) (a : Nat) (h : a ≠ s.buf.length) :
    readByte (s.store b).buf a = readByte s.buf a := by
  unfold readByte
  simp only [State.store_buf]
  rcases Nat.lt_or_gt_of_ne h with hlt | hgt
  · simp [List.getElem?_append_left hlt]
  · rw [List.getElem?_eq_none (by simp; omega), List.getElem?_eq_none (by omega)]

/-- After the clear nothing is readable (R31). -/
theorem readByte_toIdle (s : State) (a : Nat) : readByte s.toIdle.buf a = none := by
  simp [readByte]

/-- A read of many bytes is defined exactly inside the buffer (R30). -/
theorem memRead_isSome_iff (buf : Bytes) (a n : Nat) :
    (memRead buf a n).isSome = true ↔ a + n ≤ buf.length := by
  unfold memRead
  split <;> simp_all

end Sys2Proof.Machine
end

