-- ==== Sys2Proof/Laws/Operations.lean ====
section
/-! SUPPORT. For each shared operation one lemma that says once everything it can do. -/

namespace Sys2Proof.Machine

/-- A conditional operation answers a next state exactly where its condition holds, and then its
effect is that state. -/
theorem selectedWhen_next_iff (holds : Bool) (m : String) (t u : State) :
    selectedWhen holds m t = .next u ↔ holds = true ∧ u = t := by
  cases holds <;> simp [selectedWhen, eq_comm]

theorem selectedWhen_true (m : String) (t : State) : selectedWhen true m t = .next t := rfl

theorem selectedWhen_false (m : String) (t : State) :
    selectedWhen false m t = .refused (.notSelected m) := rfl

/-- An operation on a RawFrame answers a next state exactly on the domain of R79. -/
theorem onRawFrame_next_iff (f : Bytes) (t u : State) :
    onRawFrame f t = .next u ↔ 5 ≤ f.length ∧ u = t := by
  unfold onRawFrame
  split <;> simp_all [minFrame, eq_comm]

/-- What accepting a byte can do (R19). -/
theorem accept_cases (s : State) :
    (s.input = [] ∧ s.accept = none) ∨
    ∃ b rest, s.input = b :: rest ∧ s.accept = some (b, { s with input := rest }) := by
  unfold State.accept
  cases h : s.input with
  | nil => exact .inl ⟨rfl, by simp⟩
  | cons b rest => exact .inr ⟨b, rest, rfl, by simp⟩

/-- What a step can do: hold without a byte, or dispatch the byte accepted (R5, R81). -/
theorem step_cases (s t : State) (h : step s = .next t) :
    (s.input = [] ∧ t = s.hold) ∨
    ∃ b rest, s.input = b :: rest ∧ t = dispatchByte b { s with input := rest } := by
  rcases accept_cases s with ⟨hi, ha⟩ | ⟨b, rest, hi, ha⟩
  · simp only [step, ha, Host.Outcome.next.injEq] at h
    exact .inl ⟨hi, h.symm⟩
  · simp only [step, ha, exec, execDispatch, Host.Outcome.next.injEq] at h
    exact .inr ⟨b, rest, hi, h.symm⟩

/-- What `FEED` can do (R54, R64). -/
theorem feedByte_cases (b : Byte) (s : State) :
    (s.fs = .idle ∧ b = DLE ∧ feedByte b s = startFrame s) ∨
    (s.fs = .idle ∧ b ≠ DLE ∧ feedByte b s = s.feedReturn .none) ∨
    (s.fs = .inFrame ∧ completes b (s.buf ++ [b]) = true ∧
      feedByte b s = completeFrame (s.store b)) ∨
    (s.fs = .inFrame ∧ completes b (s.buf ++ [b]) = false ∧
      overflows s.params (s.buf ++ [b]) = true ∧ feedByte b s = abandonFrame (s.store b)) ∨
    (s.fs = .inFrame ∧ completes b (s.buf ++ [b]) = false ∧
      overflows s.params (s.buf ++ [b]) = false ∧ feedByte b s = stayInFrame (s.store b)) := by
  unfold feedByte
  cases hfs : s.fs with
  | idle => by_cases hb : b = DLE <;> simp [hb]
  | inFrame =>
    cases hc : completes b (s.buf ++ [b]) <;>
      cases ho : overflows s.params (s.buf ++ [b]) <;> simp [hc, ho]

/-- What `DISPATCH` can do, by what `FEED` returns (R81). -/
theorem dispatchByte_cases (b : Byte) (s : State) :
    ((feedByte b s).feedResult = .none ∧
      dispatchByte b s = ((feedByte b s).emit .none).endStep) ∨
    (∃ f, (feedByte b s).feedResult = .frame f ∧
      dispatchByte b s =
        (((feedByte b s).hand (.packet (decodePacket (feedByte b s).params.endFlagCheck f))).emit
          (.packet (decodePacket (feedByte b s).params.endFlagCheck f))).endStep) ∨
    ((feedByte b s).feedResult = .tooLong ∧
      dispatchByte b s = (((feedByte b s).hand .tooLong).emit .tooLong).endStep) := by
  unfold dispatchByte
  cases h : (feedByte b s).feedResult with
  | none => exact .inl ⟨rfl, by simp only [h]⟩
  | frame f => exact .inr (.inl ⟨f, rfl, by simp only [h]; rfl⟩)
  | tooLong => exact .inr (.inr ⟨rfl, by simp only [h]⟩)

/-- What one payload byte can do in the scan (R48). -/
theorem scanByte_cases (c : Byte) (d : DecScratch) :
    (c ≠ DLE ∧ d.pend = false ∧ scanByte c d = scanCopy c d) ∨
    (c ≠ DLE ∧ d.pend = true ∧ scanByte c d = scanFail d) ∨
    (c = DLE ∧ d.pend = false ∧ scanByte c d = scanDle1 d) ∨
    (c = DLE ∧ d.pend = true ∧ scanByte c d = scanDle2 d) := by
  by_cases hc : c = DLE <;> cases hp : d.pend <;> simp [scanByte, hc, hp]

/-- No `FEED` changes what lies outside the FrameAssembler. -/
theorem feedByte_frame (b : Byte) (s : State) :
    (feedByte b s).params = s.params ∧ (feedByte b s).input = s.input ∧
    (feedByte b s).event = s.event ∧ (feedByte b s).trace = s.trace ∧
    (feedByte b s).inboxes = s.inboxes ∧ (feedByte b s).dec = s.dec ∧
    (feedByte b s).stuffOut = s.stuffOut := by
  rcases feedByte_cases b s with ⟨-, -, h⟩ | ⟨-, -, h⟩ | ⟨-, -, h⟩ | ⟨-, -, -, h⟩ | ⟨-, -, -, h⟩ <;>
    rw [h] <;> exact ⟨rfl, rfl, rfl, rfl, rfl, rfl, rfl⟩

end Sys2Proof.Machine
end

