-- ==== Sys2Proof/Laws/PerInstr.lean ====
section
/-! SUPPORT. A statement about every operation, one lemma per constructor. -/

namespace Sys2Proof.Laws.EncodedSize

/-- R53: a BYTE row is encoded in exactly one byte, and no byte encodes a STEP row. -/
def Statement (i : Instr) : Prop :=
  (i.format = .byte → (encode i).length = 1) ∧ (i.format = .step → encode i = [])

theorem feed (b : Byte) : Statement (.feed b) :=
  ⟨nofun, nofun⟩

theorem idleStart : Statement .idleStart :=
  ⟨fun _ => rfl, nofun⟩

theorem idleDrop (b : Byte) : Statement (.idleDrop b) :=
  ⟨fun _ => rfl, nofun⟩

theorem frameEtxShort : Statement .frameEtxShort :=
  ⟨fun _ => rfl, nofun⟩

theorem frameEtxData : Statement .frameEtxData :=
  ⟨fun _ => rfl, nofun⟩

theorem frameEtxEnd : Statement .frameEtxEnd :=
  ⟨fun _ => rfl, nofun⟩

theorem frameAppend (b : Byte) : Statement (.frameAppend b) :=
  ⟨fun _ => rfl, nofun⟩

theorem frameOverflow : Statement .frameOverflow :=
  ⟨nofun, fun _ => rfl⟩

theorem decode (f : Bytes) : Statement (.decode f) :=
  ⟨nofun, nofun⟩

theorem decId : Statement .decId :=
  ⟨nofun, fun _ => rfl⟩

theorem decSlice : Statement .decSlice :=
  ⟨nofun, fun _ => rfl⟩

theorem uDle1 : Statement .uDle1 :=
  ⟨fun _ => rfl, nofun⟩

theorem uDle2 : Statement .uDle2 :=
  ⟨fun _ => rfl, nofun⟩

theorem uCopy (c : Byte) : Statement (.uCopy c) :=
  ⟨fun _ => rfl, nofun⟩

theorem uFail (c : Byte) : Statement (.uFail c) :=
  ⟨fun _ => rfl, nofun⟩

theorem decEndscan : Statement .decEndscan :=
  ⟨nofun, fun _ => rfl⟩

theorem decInvalid : Statement .decInvalid :=
  ⟨nofun, fun _ => rfl⟩

theorem decValid : Statement .decValid :=
  ⟨nofun, fun _ => rfl⟩

theorem dispatch (b : Byte) : Statement (.dispatch b) :=
  ⟨nofun, nofun⟩

theorem deliver (pkt : Packet) : Statement (.deliver pkt) :=
  ⟨nofun, fun _ => rfl⟩

theorem feedchunk (bs : Bytes) : Statement (.feedchunk bs) :=
  ⟨nofun, nofun⟩

theorem sDouble : Statement .sDouble :=
  ⟨fun _ => rfl, nofun⟩

theorem sCopy (c : Byte) : Statement (.sCopy c) :=
  ⟨fun _ => rfl, nofun⟩

theorem stuff (p : Bytes) : Statement (.stuff p) :=
  ⟨nofun, nofun⟩

theorem frame (k : Byte) (p : Bytes) : Statement (.frame k p) :=
  ⟨nofun, nofun⟩

end Sys2Proof.Laws.EncodedSize
end

