-- ==== Sys2Proof/Laws/Scanning.lean ====
section
/-! SUPPORT. The unstuffing scan: it runs part by part, stops at a failure, and writes only its own
fields (R15, R68, R72). -/

namespace Sys2Proof.Machine

@[simp] theorem scanBytes_nil (d : DecScratch) : scanBytes [] d = d := rfl

theorem scanBytes_failed (p : Bytes) (d : DecScratch) (h : d.failed = true) :
    scanBytes p d = d := by
  cases p <;> simp [scanBytes, h]

theorem scanBytes_cons (c : Byte) (p : Bytes) (d : DecScratch) (h : d.failed = false) :
    scanBytes (c :: p) d = scanBytes p (scanNext c d) := by
  simp [scanBytes, h]

/-- The scan of a concatenation is the scan of its parts in order. -/
theorem scanBytes_append (p q : Bytes) (d : DecScratch) :
    scanBytes (p ++ q) d = scanBytes q (scanBytes p d) := by
  induction p generalizing d with
  | nil => rfl
  | cons c p ih =>
    cases h : d.failed with
    | true => simp [scanBytes_failed _ _ h]
    | false => rw [List.cons_append, scanBytes_cons _ _ _ h, scanBytes_cons _ _ _ h, ih]

/-- The scan leaves the RawFrame, the id, the slice and the returned Packet alone. -/
theorem scanBytes_frame (p : Bytes) (d : DecScratch) :
    (scanBytes p d).frame = d.frame ∧ (scanBytes p d).id = d.id ∧ (scanBytes p d).p = d.p ∧
    (scanBytes p d).packet = d.packet := by
  induction p generalizing d with
  | nil => exact ⟨rfl, rfl, rfl, rfl⟩
  | cons c p ih =>
    cases h : d.failed with
    | true => simp [scanBytes_failed _ _ h]
    | false =>
      rw [scanBytes_cons _ _ _ h]
      obtain ⟨h1, h2, h3, h4⟩ := ih (scanNext c d)
      unfold scanNext at h1 h2 h3 h4 ⊢
      rcases scanByte_cases c d with ⟨-, -, e⟩ | ⟨-, -, e⟩ | ⟨-, -, e⟩ | ⟨-, -, e⟩ <;>
        rw [e] at h1 h2 h3 h4 ⊢ <;> exact ⟨h1, h2, h3, h4⟩

/-- While the scan has not failed, the pending flag is the parity of the `DLE` bytes scanned since it
was clear (R80 (c), (d)): a byte other than `DLE` fails while the flag is set. -/
theorem scanBytes_pend (p : Bytes) (d : DecScratch) (h : (scanBytes p d).failed = false) :
    (scanBytes p d).pend = (d.pend != odd (p.count DLE)) := by
  induction p generalizing d with
  | nil => simp [odd]
  | cons c p ih =>
    cases hf : d.failed with
    | true => rw [scanBytes_failed _ _ hf] at h; simp [hf] at h
    | false =>
      rw [scanBytes_cons _ _ _ hf] at h ⊢
      rw [ih _ h]
      unfold scanNext at h ⊢
      rcases scanByte_cases c d with ⟨hc, hp, e⟩ | ⟨hc, hp, e⟩ | ⟨hc, hp, e⟩ | ⟨hc, hp, e⟩ <;>
        rw [e] at h ⊢
      · simp [scanCopy, hp, hc]
      · rw [scanBytes_failed _ _ rfl] at h
        simp [scanFail] at h
      · rcases Nat.mod_two_eq_zero_or_one (p.count DLE) with hn | hn <;>
          simp [scanDle1, hp, hc, odd, Nat.add_mod, hn]
      · rcases Nat.mod_two_eq_zero_or_one (p.count DLE) with hn | hn <;>
          simp [scanDle2, hp, hc, odd, Nat.add_mod, hn]

/-- The payload slice of a frame of at least four bytes is its `MemRead(2, L-4)` (R30, R70). -/
theorem memRead_framePayload (f : Bytes) (h : 4 ≤ f.length) :
    memRead f 2 (f.length - 4) = some (framePayload f) := by
  have h2 : 2 + (f.length - 4) = f.length - 2 := by omega
  simp [memRead, framePayload, countFrom, h2]

/-- The id read is inside the frame (R30, R69). -/
theorem getElem?_frameId (f : Bytes) (h : 2 ≤ f.length) : f[1]? = some (frameId f) := by
  rw [List.getElem?_eq_getElem (by omega)]
  simp [frameId, List.getD, List.getElem?_eq_getElem (show 1 < f.length by omega)]

end Sys2Proof.Machine
end

