-- ==== Sys2Proof/Tests/Slice0.lean ====
section
/-! SUPPORT. The model's own tests: the well-formedness checks refuse, the decoder reads the words of
the spec's encodings, single operations give the results of spec/95_test_vectors.md, and every
statement with hypotheses has a witness that meets them. -/

namespace Sys2Proof.Tests

open Sys2Proof Sys2Proof.Machine

/-- The reset state with the FrameAssembler at (`fs`, `buf`). -/
def at' (fs : FramingState) (buf : Bytes) : State :=
  { State.reset with fs := fs, buf := buf }

/-- The same with a bound. -/
def bounded (n : Nat) (fs : FramingState) (buf : Bytes) : State :=
  { at' fs buf with params := { maxFrameLen := some n, endFlagCheck := false } }

/-- The reset state with a Decoder scratch. -/
def scratch (d : DecScratch) : State :=
  { State.reset with dec := d }

/-- The state an operation gives, if it gives one. -/
def after (i : Instr) (s : State) : Option State :=
  match exec i s with
  | .next t => some t
  | .fault _ => none
  | .refused _ => none

/-- The refusal an operation gives, if it gives one. -/
def refusal (i : Instr) (s : State) : Option Refusal :=
  match exec i s with
  | .next _ => none
  | .fault _ => none
  | .refused r => some r

/-- What the decoder reads, if it reads an operation. -/
def read (site : Site) (word : Bytes) : Option Instr :=
  match decodeAt site word with
  | .ok i => some i
  | .error _ => none

/-- Why the decoder rejects, if it does. -/
def rejects (site : Site) (word : Bytes) : Option DecodeError :=
  match decodeAt site word with
  | .ok _ => none
  | .error e => some e

/-! ### The checks of WellFormed refuse -/

theorem test_wf_idleDrop : (Instr.idleDrop 0x10).wf = false := by decide
theorem test_wf_frameAppend : (Instr.frameAppend 0x03).wf = false := by decide
theorem test_wf_decode : (Instr.decode [0x10, 0x01, 0x10, 0x03]).wf = false := by decide
theorem test_wf_uCopy : (Instr.uCopy 0x10).wf = false := by decide
theorem test_wf_uFail : (Instr.uFail 0x10).wf = false := by decide
theorem test_wf_sCopy : (Instr.sCopy 0x10).wf = false := by decide
theorem test_wf_frame : (Instr.frame 0x01 []).wf = false := by decide
theorem test_wf_deliver_invalid_with_data :
    (Instr.deliver { isValid := false, id := 0, data := [0x41], rawData := [] }).wf = false := by
  decide
theorem test_wf_packet_short :
    Packet.wf { isValid := true, id := 1, data := [0x41], rawData := [0x10, 1, 0x10, 3] } = false := by
  decide
theorem test_wf_packet_start :
    Packet.wf { isValid := true, id := 1, data := [0x41], rawData := [0x11, 1, 0x41, 0x10, 3] } = false := by
  decide
theorem test_wf_packet_id :
    Packet.wf { isValid := true, id := 2, data := [0x41], rawData := [0x10, 1, 0x41, 0x10, 3] } = false := by
  decide
theorem test_wf_packet_end :
    Packet.wf { isValid := true, id := 1, data := [0x41], rawData := [0x10, 1, 0x41, 0x10, 4] } = false := by
  decide
theorem test_wf_packet_no_data :
    Packet.wf { isValid := true, id := 1, data := [], rawData := [0x10, 1, 0x41, 0x10, 3] } = false := by
  decide
theorem test_wf_packet_long_data :
    Packet.wf { isValid := true, id := 1, data := [1, 2], rawData := [0x10, 1, 0x41, 0x10, 3] } = false := by
  decide
theorem test_wf_params : Params.wf { maxFrameLen := some 4, endFlagCheck := false } = false := by
  decide

/-! ### Words of the spec's encodings (opcode_table.json, `encoding`; R47 for the others) -/

theorem test_decode_feed : read .feedPort [0b01000001] = some (.feed 0x41) := by decide
theorem test_decode_idleStart :
    read (.assembler .idle 1 false) [0b00010000] = some .idleStart := by decide
theorem test_decode_idleDrop :
    read (.assembler .idle 1 false) [0b00000011] = some (.idleDrop 0x03) := by decide
theorem test_decode_frameEtxShort :
    read (.assembler .inFrame 4 true) [0b00000011] = some .frameEtxShort := by decide
theorem test_decode_frameEtxData :
    read (.assembler .inFrame 5 false) [0b00000011] = some .frameEtxData := by decide
theorem test_decode_frameEtxEnd :
    read (.assembler .inFrame 5 true) [0b00000011] = some .frameEtxEnd := by decide
theorem test_decode_frameAppend :
    read (.assembler .inFrame 5 true) [0b00010000] = some (.frameAppend 0x10) := by decide
theorem test_decode_frameOverflow : read (.guard 8 (some 8)) [] = some .frameOverflow := by decide
theorem test_decode_decode :
    read .decoderPort [0x10, 0x01, 0x41, 0x10, 0x03] =
      some (.decode [0x10, 0x01, 0x41, 0x10, 0x03]) := by decide
theorem test_decode_decId : read .decodeId [] = some .decId := by decide
theorem test_decode_decSlice : read .decodeSlice [] = some .decSlice := by decide
theorem test_decode_uDle1 : read (.unstuff false) [0b00010000] = some .uDle1 := by decide
theorem test_decode_uDle2 : read (.unstuff true) [0b00010000] = some .uDle2 := by decide
theorem test_decode_uCopy : read (.unstuff false) [0b00000011] = some (.uCopy 0x03) := by decide
theorem test_decode_uFail : read (.unstuff true) [0b01000001] = some (.uFail 0x41) := by decide
theorem test_decode_decEndscan : read .scanEnd [] = some .decEndscan := by decide
theorem test_decode_decInvalid : read (.verdict true) [] = some .decInvalid := by decide
theorem test_decode_decValid : read (.verdict false) [] = some .decValid := by decide
theorem test_decode_dispatch : read .port [0b00010000] = some (.dispatch 0x10) := by decide
theorem test_decode_deliver :
    read (.delivery Packet.invalid) [] = some (.deliver Packet.invalid) := by decide
theorem test_decode_feedchunk : read .chunkPort [0x10, 0x01] = some (.feedchunk [0x10, 0x01]) := by
  decide
theorem test_decode_sDouble : read .stuff [0b00010000] = some .sDouble := by decide
theorem test_decode_sCopy : read .stuff [0b00000011] = some (.sCopy 0x03) := by decide
theorem test_decode_stuff : read .stuffPort [0x10, 0x42] = some (.stuff [0x10, 0x42]) := by decide
theorem test_decode_frame : read .framePort [0x02, 0x10, 0x42] = some (.frame 0x02 [0x10, 0x42]) := by
  decide

/-- The decoder rejects by name what selects nothing. -/
theorem test_rejects_by_name :
    rejects .port [] = some .notOneByte ∧ rejects .scanEnd [0x00] = some .takesNoByte ∧
    rejects .decoderPort [0x10, 0x01, 0x10, 0x03] = some .shortFrame ∧
    rejects .framePort [0x01] = some .emptyPayload ∧
    rejects (.guard 7 (some 8)) [] = some .belowBound ∧ rejects (.guard 7 none) [] = some .belowBound ∧
    rejects (.delivery { isValid := false, id := 1, data := [], rawData := [] }) [] =
      some .notAPacket := by decide

/-- The host's two readings of a word at reset: `10` starts a frame, anything else is dropped. -/
theorem test_table_word : decodeTableWord 8 0x10 = some .idleStart ∧
    decodeTableWord 8 0x03 = some (.idleDrop 0x03) := by decide

/-! ### Single operations, expected results from spec/95_test_vectors.md -/

/-- V-A7: completion without a `10` before the `03`, count 1. -/
theorem test_feed_completes_without_trailer :
    (after (.feed 0x03) (at' .inFrame [0x10, 0x01, 0x10, 0x41])).map (·.feedResult) =
      some (.frame [0x10, 0x01, 0x10, 0x41, 0x03]) := by decide

/-- V-A11: the last byte of the source's S9 input, count 2, does not complete. -/
theorem test_feed_counts_every_dle :
    (after (.feed 0x03) (at' .inFrame [0x10, 0x03, 0x10, 0x41, 0x10])).map
      (fun t => (t.fs, t.feedResult)) = some (.inFrame, .none) := by decide

/-- V-A2. -/
theorem test_idleStart :
    after .idleStart (at' .idle []) = some (at' .inFrame [0x10]) := by decide

/-- V-A1: `03` in `Idle` is dropped. -/
theorem test_idleDrop : after (.idleDrop 0x03) (at' .idle []) = some (at' .idle []) := by decide

/-- V-A4. -/
theorem test_frameEtxShort :
    after .frameEtxShort (at' .inFrame [0x10, 0x01, 0x10]) =
      some (at' .inFrame [0x10, 0x01, 0x10, 0x03]) := by decide

/-- V-A6, count 2; V-A8's buffer, count 1, does not select it. -/
theorem test_frameEtxData :
    after .frameEtxData (at' .inFrame [0x10, 0x01, 0x10, 0x10]) =
      some (at' .inFrame [0x10, 0x01, 0x10, 0x10, 0x03]) ∧
    refusal .frameEtxData (at' .inFrame [0x10, 0x01, 0x41, 0x10]) =
      some (.notSelected "FRAME.ETX.DATA") := by decide

/-- V-A8, and V-A10's id `10`, which the count leaves out. -/
theorem test_frameEtxEnd :
    (after .frameEtxEnd (at' .inFrame [0x10, 0x01, 0x41, 0x10])).map
      (fun t => (t.fs, t.buf, t.feedResult)) =
        some (.idle, [], .frame [0x10, 0x01, 0x41, 0x10, 0x03]) ∧
    (after .frameEtxEnd (at' .inFrame [0x10, 0x10, 0x41, 0x10])).map (·.feedResult) =
        some (.frame [0x10, 0x10, 0x41, 0x10, 0x03]) := by decide

/-- V-A16: a `10` in a frame never restarts it. -/
theorem test_frameAppend :
    after (.frameAppend 0x10) (at' .inFrame [0x10, 0x01, 0x41]) =
      some (at' .inFrame [0x10, 0x01, 0x41, 0x10]) := by decide

/-- R62's example, the byte `46` having been appended: `N = 8`. -/
theorem test_frameOverflow :
    (after .frameOverflow
      (bounded 8 .inFrame [0x10, 0x01, 0x41, 0x42, 0x43, 0x44, 0x45, 0x46])).map
      (fun t => (t.fs, t.buf, t.feedResult)) = some (.idle, [], .tooLong) := by decide

/-- V-D2 and V-D7: the pending flag left set is no error. -/
theorem test_decode_valid :
    (after (.decode [0x10, 0x02, 0x10, 0x10, 0x42, 0x10, 0x03]) State.reset).map (·.dec.packet) =
      some (some { isValid := true, id := 0x02, data := [0x10, 0x42],
                   rawData := [0x10, 0x02, 0x10, 0x10, 0x42, 0x10, 0x03] }) ∧
    (after (.decode [0x10, 0x01, 0x10, 0x41, 0x03]) State.reset).map
      (fun t => (t.dec.pend, t.dec.packet)) =
      some (true, some { isValid := true, id := 0x01, data := [0x10],
                         rawData := [0x10, 0x01, 0x10, 0x41, 0x03] }) := by decide

/-- V-D5, V-D6; and V-D7 with `END_FLAG_CHECK = true`. -/
theorem test_decode_invalid :
    (after (.decode [0x10, 0x01, 0x10, 0x41, 0x10, 0x10, 0x03]) State.reset).map (·.dec.packet) =
      some (some Packet.invalid) ∧
    (after (.decode [0x10, 0x03, 0x10, 0x41, 0x10, 0x03]) State.reset).map (·.dec.packet) =
      some (some Packet.invalid) ∧
    (after (.decode [0x10, 0x01, 0x10, 0x41, 0x03])
      { State.reset with params := { maxFrameLen := none, endFlagCheck := true } }).map
      (·.dec.packet) = some (some Packet.invalid) := by decide

/-- R69's example. -/
theorem test_decId :
    (after .decId (scratch (decStart [0x10, 0x8F, 0x03, 0x10, 0x10, 0x03, 0x7E, 0x10, 0x03]))).map
      (·.dec.id) = some 0x8F := by decide

/-- R70's example: the `41` is dropped. -/
theorem test_decSlice :
    (after .decSlice (scratch (decStart [0x10, 0x01, 0x10, 0x41, 0x03]))).map (·.dec.p) =
      some [0x10] := by decide

/-- The examples of R71 to R74. -/
theorem test_uCopy :
    (after (.uCopy 0x42) (scratch { DecScratch.initial with out := [0x41] })).map (·.dec.out) =
      some [0x41, 0x42] := by decide
theorem test_uFail :
    (after (.uFail 0x41) (scratch { DecScratch.initial with out := [0x10], pend := true })).map
      (·.dec.failed) = some true := by decide
theorem test_uDle1 :
    (after .uDle1 (scratch DecScratch.initial)).map (fun t => (t.dec.out, t.dec.pend)) =
      some ([0x10], true) := by decide
theorem test_uDle2 :
    (after .uDle2 (scratch { DecScratch.initial with out := [0x10], pend := true })).map
      (fun t => (t.dec.out, t.dec.pend)) = some ([0x10], false) := by decide

/-- R75's example: the scan of `[10]` ended with the flag set and does not fail. -/
theorem test_decEndscan :
    (after .decEndscan
      (scratch { DecScratch.initial with p := [0x10], out := [0x10], pend := true, k := 1 })).map
      (·.dec.failed) = some false := by decide

/-- R76's example. -/
theorem test_decInvalid :
    (after .decInvalid (scratch { decStart [0x10, 0x01, 0x10, 0x41, 0x10, 0x10, 0x03] with
      id := 0x01, out := [0x10], failed := true })).map (·.dec.packet) =
      some (some { isValid := false, id := 0, data := [], rawData := [] }) := by decide

/-- R77's example. -/
theorem test_decValid :
    (after .decValid (scratch { decStart [0x10, 0x01, 0x41, 0x10, 0x03] with
      id := 0x01, out := [0x41] })).map (·.dec.packet) =
      some (some { isValid := true, id := 0x01, data := [0x41],
                   rawData := [0x10, 0x01, 0x41, 0x10, 0x03] }) := by decide

/-- R81's example, its last step. -/
theorem test_dispatch_emits_packet :
    (after (.dispatch 0x03) (at' .inFrame [0x10, 0x01, 0x41, 0x10])).map (·.event) =
      some (.packet { isValid := true, id := 0x01, data := [0x41],
                      rawData := [0x10, 0x01, 0x41, 0x10, 0x03] }) := by decide

/-- V-O3's byte at index 4: the overflowing `10` is discarded, not taken as a start marker. -/
theorem test_dispatch_overflows :
    (after (.dispatch 0x10) (bounded 5 .inFrame [0x10, 0x01, 0x41, 0x42])).map
      (fun t => (t.fs, t.buf, t.event)) = some (.idle, [], .tooLong) := by decide

/-- V-P4: with two consumers both receive the invalid Packet. -/
theorem test_deliver :
    (after (.deliver Packet.invalid) { State.reset with inboxes := [[], []] }).map (·.inboxes) =
      some [[.packet Packet.invalid], [.packet Packet.invalid]] := by decide

/-- V-A13: the lock is broken by the next frame's id, the invalid Packet is delivered, and a false
start follows. -/
theorem test_feedchunk_parity_lock :
    (after (.feedchunk [0x10, 0x03, 0x10, 0x41, 0x10, 0x03, 0x10, 0x03, 0x41, 0x10, 0x03])
      State.reset).map (fun t => (t.buf, t.trace)) =
      some ([0x10, 0x03], [.packet Packet.invalid]) := by decide

/-- V-O2 with `N = 7`: too long at index 6, then a drop. -/
theorem test_feedchunk_too_long :
    (after (.feedchunk [0x10, 0x01, 0x41, 0x42, 0x43, 0x44, 0x10, 0x03]) (bounded 7 .idle [])).map
      (fun t => (t.buf, t.trace)) = some ([], [.tooLong]) := by decide

/-- R90 and R91's examples. -/
theorem test_sCopy :
    (after (.sCopy 0x03) State.reset).map (·.stuffOut) = some [0x03] := by decide
theorem test_sDouble :
    (after .sDouble State.reset).map (·.stuffOut) = some [0x10, 0x10] := by decide

/-- V-S4. -/
theorem test_stuff :
    (after (.stuff [0x03, 0x10, 0x10, 0x03]) State.reset).map (·.stuffOut) =
      some [0x03, 0x10, 0x10, 0x10, 0x10, 0x03] := by decide

/-- V-S3; and V-S7, outside the domain. -/
theorem test_frame :
    (after (.frame 0x10 [0x10]) State.reset).map (·.stuffOut) =
      some [0x10, 0x10, 0x10, 0x10, 0x10, 0x03] ∧
    refusal (.frame 0x10 []) State.reset = some .emptyPayload := by decide

/-- One step from reset with a word presented: `10` is accepted and starts a frame. -/
theorem test_step_withFetchWord :
    (match step (State.reset.withFetchWord 8 0x10) with
     | .next t => some (t.fs, t.buf, t.input)
     | .fault _ => none
     | .refused _ => none) = some (.inFrame, [0x10], []) := by decide

/-! ### Witnesses: for each statement with hypotheses, a state and operands that meet them together,
and where a statement has several clauses, one for each, at the boundary where they meet. -/

/-- A buffer in a frame, a bound, and every invariant of R25: the last byte before the bound. -/
theorem inv_before_bound :
    (bounded 8 .inFrame [0x10, 0x01, 0x41, 0x42, 0x43, 0x44, 0x45]).Inv where
  params_wf := by decide
  idle_iff_empty := by simp [bounded, at']
  starts_with_dle := by intro _; decide
  no_missed_end := by
    intro _ j h4 h
    have hj : j < 7 := by
      by_contra hj
      have : (bounded 8 .inFrame [0x10, 0x01, 0x41, 0x42, 0x43, 0x44, 0x45]).buf[j]? = none :=
        List.getElem?_eq_none (by simp [bounded, at']; omega)
      rw [this] at h
      cases h
    interval_cases j <;> revert h <;> decide
  below_bound := by
    intro n h
    have : n = 8 := by simpa [bounded, at', eq_comm] using h
    subst this
    decide

/-- A buffer of four bytes before its end marker, with the least bound, and every invariant. -/
theorem inv_before_end : (bounded 5 .inFrame [0x10, 0x01, 0x41, 0x10]).Inv where
  params_wf := by decide
  idle_iff_empty := by simp [bounded, at']
  starts_with_dle := by intro _; decide
  no_missed_end := by
    intro _ j h4 h
    have : (bounded 5 .inFrame [0x10, 0x01, 0x41, 0x10]).buf[j]? = none :=
      List.getElem?_eq_none (by simp [bounded, at']; omega)
    rw [this] at h
    cases h
  below_bound := by
    intro n h
    have : n = 5 := by simpa [bounded, at', eq_comm] using h
    subst this
    decide

theorem witness_IdleStartOpensFrame : (at' .idle []).fs = .idle := by decide
theorem witness_IdleDropDiscardsByte : (at' .idle []).fs = .idle ∧ (0x11 : Byte) ≠ 0x10 := by decide
theorem witness_FrameAppendExtendsBuffer :
    (at' .inFrame [0x10, 0x01]).fs = .inFrame ∧ (0x10 : Byte) ≠ 0x03 := by decide
theorem witness_EtxShortAppends :
    (at' .inFrame [0x10, 0x01, 0x41]).fs = .inFrame ∧
    (at' .inFrame [0x10, 0x01, 0x41]).buf.length + 1 < 5 := by decide
theorem witness_EtxDataAppends :
    (at' .inFrame [0x10, 0x01, 0x10, 0x10]).fs = .inFrame ∧
    5 ≤ (at' .inFrame [0x10, 0x01, 0x10, 0x10]).buf.length + 1 ∧
    cnt ([0x10, 0x01, 0x10, 0x10] ++ [0x03]) 2 (4 + 1) % 2 = 0 := by decide
theorem witness_EtxEndCompletesFrame :
    (at' .inFrame [0x10, 0x01, 0x41, 0x10]).fs = .inFrame ∧
    5 ≤ (at' .inFrame [0x10, 0x01, 0x41, 0x10]).buf.length + 1 ∧
    cnt ([0x10, 0x01, 0x41, 0x10] ++ [0x03]) 2 (4 + 1) % 2 = 1 := by decide
theorem witness_OverflowAbandonsFrame_unbounded :
    (at' .inFrame [0x10]).fs = .inFrame ∧ (at' .inFrame [0x10]).params.maxFrameLen = none := by decide
theorem witness_OverflowAbandonsFrame_bounded :
    (bounded 5 .inFrame [0x10, 0x01, 0x41, 0x42, 0x43]).fs = .inFrame ∧
    (bounded 5 .inFrame [0x10, 0x01, 0x41, 0x42, 0x43]).params.maxFrameLen = some 5 ∧
    5 ≤ (bounded 5 .inFrame [0x10, 0x01, 0x41, 0x42, 0x43]).buf.length := by decide
/-- The guard fires: one byte below the bound, a byte that does not complete. -/
theorem witness_GuardFiresAfterCompletionTest_fires :
    (bounded 8 .inFrame [0x10, 0x01, 0x41, 0x42, 0x43, 0x44, 0x45]).Inv ∧
    (bounded 8 .inFrame [0x10, 0x01, 0x41, 0x42, 0x43, 0x44, 0x45]).fs = .inFrame ∧
    (bounded 8 .inFrame [0x10, 0x01, 0x41, 0x42, 0x43, 0x44, 0x45]).params.maxFrameLen = some 8 ∧
    (after (.feed 0x46) (bounded 8 .inFrame [0x10, 0x01, 0x41, 0x42, 0x43, 0x44, 0x45])).map
      (·.feedResult) = some .tooLong :=
  ⟨inv_before_bound, by decide, by decide, by decide⟩
/-- Completion wins at the bound (V-O4). -/
theorem witness_GuardFiresAfterCompletionTest_completes :
    (bounded 5 .inFrame [0x10, 0x01, 0x41, 0x10]).Inv ∧
    (bounded 5 .inFrame [0x10, 0x01, 0x41, 0x10]).fs = .inFrame ∧
    (bounded 5 .inFrame [0x10, 0x01, 0x41, 0x10]).params.maxFrameLen = some 5 ∧
    (after (.feed 0x03) (bounded 5 .inFrame [0x10, 0x01, 0x41, 0x10])).map (·.feedResult) =
      some (.frame [0x10, 0x01, 0x41, 0x10, 0x03]) :=
  ⟨inv_before_end, by decide, by decide, by decide⟩
theorem witness_SelectionDependsOnByteClass :
    byteClass 0x00 = byteClass 0xFF ∧
    decodeAt (.assembler .inFrame 5 true) [0x00] = .ok (.frameAppend 0x00) ∧
    decodeAt (.assembler .inFrame 5 true) [0xFF] = .ok (.frameAppend 0xFF) :=
  ⟨by decide, rfl, rfl⟩
theorem witness_AppendStoresAtLengthOnly :
    (after (.frameAppend 0x41) (at' .inFrame [0x10, 0x01])).isSome = true ∧
    (after .frameEtxShort (at' .inFrame [0x10, 0x01, 0x41])).isSome = true ∧
    (after .frameEtxData (at' .inFrame [0x10, 0x01, 0x10, 0x10])).isSome = true := by decide
theorem witness_OnlyAssemblerWritesFraming :
    writesFraming (.uCopy 0x41) = false ∧ (after (.uCopy 0x41) State.reset).isSome = true := by decide
theorem witness_FeedReturnsRawFrameShape :
    (bounded 5 .inFrame [0x10, 0x01, 0x41, 0x10]).Inv ∧
    (after (.feed 0x03) (bounded 5 .inFrame [0x10, 0x01, 0x41, 0x10])).map (·.feedResult) =
      some (.frame [0x10, 0x01, 0x41, 0x10, 0x03]) :=
  ⟨inv_before_end, by decide⟩
theorem witness_UnterminatedFrameGrows :
    (at' .inFrame [0x10]).fs = .inFrame ∧ (at' .inFrame [0x10]).params.maxFrameLen = none ∧
    (0x03 : Byte) ∉ ([0x10, 0x41] : Bytes) := by decide
theorem witness_ParityLockSwallowsFrame :
    (at' .inFrame [0x10, 0x03, 0x10, 0x41, 0x10, 0x03]).fs = .inFrame ∧
    2 ≤ (at' .inFrame [0x10, 0x03, 0x10, 0x41, 0x10, 0x03]).buf.length ∧
    countParity (at' .inFrame [0x10, 0x03, 0x10, 0x41, 0x10, 0x03]).buf = false ∧
    (at' .inFrame [0x10, 0x03, 0x10, 0x41, 0x10, 0x03]).params.maxFrameLen = none ∧
    (0x01 : Byte) ≠ 0x10 ∧ (0x01 : Byte) ≠ 0x03 ∧ (0x03 : Byte) ∉ ([0x41] : Bytes) ∧
    1 ≤ ([0x41] : Bytes).length := by decide
theorem witness_UCopyAppendsByte : (0x41 : Byte) ≠ 0x10 ∧ State.reset.dec.pend = false := by decide
theorem witness_UFailMakesPacketInvalid :
    (0x41 : Byte) ≠ 0x10 ∧ (scratch { DecScratch.initial with pend := true }).dec.pend = true := by
  decide
theorem witness_UDle1CopiesAndSetsPend : State.reset.dec.pend = false := by decide
theorem witness_UDle2ClearsPend :
    (scratch { DecScratch.initial with pend := true }).dec.pend = true ∧
    DecScratch.initial.pend = false ∧ DecScratch.initial.failed = false := by decide
theorem witness_DecIdTakesSecondByte :
    5 ≤ (scratch (decStart [0x10, 0x01, 0x41, 0x10, 0x03])).dec.frame.length := by decide
theorem witness_DecSliceCutsPayload :
    5 ≤ (scratch (decStart [0x10, 0x01, 0x41, 0x10, 0x03])).dec.frame.length := by decide
theorem witness_DecEndscanFollowsParameter :
    State.reset.dec.failed = false ∧ State.reset.dec.k = State.reset.dec.p.length ∧
    State.reset.params.endFlagCheck = false ∧
    ({ State.reset with params := { maxFrameLen := none, endFlagCheck := true } } : State).params.endFlagCheck
      = true := by decide
theorem witness_DecInvalidReturnsInvalidPacket :
    (scratch { DecScratch.initial with failed := true }).dec.failed = true := by decide
theorem witness_DecValidReturnsFrame : State.reset.dec.failed = false := by decide
theorem witness_DecodeUnstuffsByPairs :
    5 ≤ ([0x10, 0x01, 0x10, 0x41, 0x03] : Bytes).length ∧
    unstuffPairs false [0x10] = some [0x10] ∧ unstuffPairs true [0x10] = none := by decide
theorem witness_DecodeRefusesShortFrame : ([0x10, 0x01, 0x10, 0x03] : Bytes).length < 5 := by decide
/-- Both sides: the flag is left set without the trailer's `10`, and clear with it. -/
theorem witness_PendLeftSetIffTrailerMissing :
    (after (.feed 0x03) (at' .inFrame [0x10, 0x01, 0x10, 0x41])).map (·.feedResult) =
      some (.frame [0x10, 0x01, 0x10, 0x41, 0x03]) ∧
    (after (.decode [0x10, 0x01, 0x10, 0x41, 0x03]) (at' .idle [])).map
      (fun u => (u.dec.failed, u.dec.pend)) = some (false, true) ∧
    (after (.feed 0x03) (at' .inFrame [0x10, 0x01, 0x41, 0x10])).map (·.feedResult) =
      some (.frame [0x10, 0x01, 0x41, 0x10, 0x03]) ∧
    (after (.decode [0x10, 0x01, 0x41, 0x10, 0x03]) (at' .idle [])).map
      (fun u => (u.dec.failed, u.dec.pend)) = some (false, false) := by decide
theorem witness_DispatchComposesParts :
    (after (.feed 0x00) (at' .idle [])).map (·.feedResult) = some .none ∧
    (after (.feed 0x03) (at' .inFrame [0x10, 0x01, 0x41, 0x10])).map (·.feedResult) =
      some (.frame [0x10, 0x01, 0x41, 0x10, 0x03]) ∧
    (after (.feed 0x43) (bounded 5 .inFrame [0x10, 0x01, 0x41, 0x42])).map (·.feedResult) =
      some .tooLong := by decide
theorem witness_DeliverReachesEveryConsumer :
    Packet.invalid.wf = true ∧ State.reset.inboxes[0]? = some [] := by decide
theorem witness_StepsEqualChunk :
    ({ State.reset with input := [0x10, 0x01] } : State).input = [0x10] ++ [0x01] := by decide
theorem witness_StepRunsDispatch :
    ({ State.reset with input := [0x10, 0x01] } : State).input = 0x10 :: [0x01] := by decide
/-- The three cases: nothing returned, the guard, and a RawFrame. -/
theorem witness_StepRunsDecodedOperation :
    (after .idleStart (at' .idle [])).map (·.feedResult) = some .none ∧
    (after (.frameAppend 0x43) (bounded 5 .inFrame [0x10, 0x01, 0x41, 0x42])).map
      (fun t => (t.feedResult, t.guardSite.isOverflow)) = some (.none, true) ∧
    (after .frameEtxEnd (at' .inFrame [0x10, 0x01, 0x41, 0x10])).map (·.feedResult) =
      some (.frame [0x10, 0x01, 0x41, 0x10, 0x03]) := by decide
theorem witness_StepWithoutInputHolds : State.reset.input = [] := by decide
theorem witness_SpuriousByteIsSilent :
    ({ State.reset with input := [0x03] } : State).fs = .idle ∧
    ({ State.reset with input := [0x03] } : State).input = 0x03 :: [] ∧ (0x03 : Byte) ≠ 0x10 := by
  decide
theorem witness_EventLeavesResetFraming :
    (match step { at' .inFrame [0x10, 0x01, 0x41, 0x10] with input := [0x03] } with
     | .next t => decide (t.event ≠ .none)
     | .fault _ => false
     | .refused _ => false) = true := by decide
theorem witness_TooLongNeedsBound :
    (match step { bounded 5 .inFrame [0x10, 0x01, 0x41, 0x42] with input := [0x10] } with
     | .next t => decide (t.event = .tooLong)
     | .fault _ => false
     | .refused _ => false) = true := by decide
theorem witness_AtMostOnePacketPerFiveBytes :
    (at' .idle []).fs = .idle ∧ (at' .idle []).buf = [] ∧ (at' .idle []).params.wf = true ∧
    ([0x10, 0x01, 0x41, 0x10] : Bytes).length < 5 := by decide
theorem witness_SCopyAppendsByte : (0x03 : Byte) ≠ 0x10 := by decide
theorem witness_StuffDoublesEachDle : (0x10 : Byte) ∉ ([0x03] : Bytes) := by decide
theorem witness_FrameBuildsWireShape :
    1 ≤ ([0x41] : Bytes).length ∧ ([] : Bytes).length = 0 := by decide
theorem witness_StuffAndFrameAreInjective :
    (after (.stuff [0x10]) State.reset).isSome = true ∧
    (after (.frame 0x10 [0x10]) State.reset).isSome = true := by decide
theorem witness_DecodeInvertsFrame : 1 ≤ ([0x10] : Bytes).length := by decide
theorem witness_FrameRoundTripsEndToEnd :
    (bounded 5 .idle []).fs = .idle ∧ (bounded 5 .idle []).buf = [] ∧
    1 ≤ ([0x41] : Bytes).length ∧ (bounded 5 .idle []).params.maxFrameLen = some 5 ∧
    ([0x41] : Bytes).length + cnt [0x41] 0 1 + 4 ≤ 5 := by decide
theorem witness_StreamGivesItsPacketsInOrder :
    (at' .idle []).fs = .idle ∧ (at' .idle []).buf = [] ∧
    (StreamPart.Fits (at' .idle []).params.maxFrameLen
      { gap := [0xAA], id := 0x8F, payload := [0x03, 0x10, 0x03, 0x7E] }) ∧
    (0x10 : Byte) ∉ ([0x41] : Bytes) :=
  ⟨by decide, by decide, ⟨by decide, by decide, fun n h => nomatch h⟩, by decide⟩
theorem witness_DecodeOfEncodeIsIdentity :
    (Instr.idleDrop 0x03).wf = true ∧
    (Instr.idleDrop 0x03).selectedAt (.assembler .idle 1 false) = true := by decide
theorem witness_EncodeOfDecodeIsIdentity :
    decodeAt (.assembler .inFrame 5 true) [0x03] = .ok .frameEtxEnd := rfl
/-- The byte that completes a frame of exactly the bound's length is waiting. -/
def beforeEnd : State := { bounded 5 .inFrame [0x10, 0x01, 0x41, 0x10] with input := [0x03] }

theorem beforeEnd_inv : beforeEnd.Inv :=
  ⟨inv_before_end.params_wf, inv_before_end.idle_iff_empty, inv_before_end.starts_with_dle,
    inv_before_end.no_missed_end, inv_before_end.below_bound⟩

theorem witness_StepKeepsFramingInvariant :
    beforeEnd.Inv ∧ ∃ t, step beforeEnd = .next t := ⟨beforeEnd_inv, _, rfl⟩
theorem witness_StepLeavesNoScratch :
    State.Quiet (at' .idle []) ∧ ({ State.reset with input := [0x10] } : State).input ≠ [] ∧
    ∃ t, step { State.reset with input := [0x10] } = .next t :=
  ⟨⟨rfl, rfl⟩, by decide, _, rfl⟩
theorem witness_StepKeepsConsumersInStepWithTrace :
    State.Delivered { beforeEnd with inboxes := [[.tooLong], [.tooLong]], trace := [.tooLong] } ∧
    ∃ t, step { beforeEnd with inboxes := [[.tooLong], [.tooLong]], trace := [.tooLong] } = .next t :=
  ⟨fun box h => by simpa using h, _, rfl⟩
theorem witness_StepKeepsPacketsWellFormed :
    beforeEnd.Inv ∧ State.TraceWf beforeEnd ∧ ∃ t, step beforeEnd = .next t :=
  ⟨beforeEnd_inv, (fun _ h => nomatch h), _, rfl⟩
/-- An operation that applies and one that does not, at the boundary between two rows (length four
and five after the append). -/
theorem witness_OperationsCompleteExactlyWhereTheyApply :
    (at' .inFrame [0x10, 0x01, 0x41]).Applies .frameEtxShort ∧
    ¬(at' .inFrame [0x10, 0x01, 0x41, 0x10]).Applies .frameEtxShort ∧
    (at' .inFrame [0x10, 0x01, 0x41, 0x10]).Applies .frameEtxEnd :=
  ⟨⟨rfl, by decide⟩, fun h => absurd h.2 (by decide), ⟨rfl, by decide, by decide⟩⟩
theorem witness_ParametersNeverChange : (after (.feedchunk [0x10]) State.reset).isSome = true := by
  decide

end Sys2Proof.Tests
end

section
/-! PROOFS. The scope of the block (spec/00_scope.md): what surrounds a run and no operation changes,
the byte a step accepts, and the state it starts from. -/

namespace Sys2Proof.Machine

/-! ### The surroundings of a run (R6, R113) -/

/-- The two states agree on what surrounds a run: the parameters, how many consumers there are, and
the bytes still waiting at the input port. What the consumers have been handed may differ. -/
structure State.SameSurroundings (s t : State) : Prop where
  params : t.params = s.params
  consumers : t.inboxes.length = s.inboxes.length
  input : t.input = s.input

theorem State.SameSurroundings.refl (s : State) : s.SameSurroundings s :=
  ⟨rfl, rfl, rfl⟩

theorem State.SameSurroundings.trans {s t u : State} (h : s.SameSurroundings t)
    (h' : t.SameSurroundings u) : s.SameSurroundings u :=
  ⟨h'.params.trans h.params, h'.consumers.trans h.consumers, h'.input.trans h.input⟩

/-! Each effect keeps the surroundings. -/

theorem feedReturn_sameSurroundings (r : FeedResult) (s : State) :
    s.SameSurroundings (s.feedReturn r) :=
  ⟨rfl, rfl, rfl⟩

theorem startFrame_sameSurroundings (s : State) : s.SameSurroundings (startFrame s) :=
  ⟨rfl, rfl, rfl⟩

theorem stayInFrame_store_sameSurroundings (b : Byte) (s : State) :
    s.SameSurroundings (stayInFrame (s.store b)) :=
  ⟨rfl, rfl, rfl⟩

theorem completeFrame_store_sameSurroundings (b : Byte) (s : State) :
    s.SameSurroundings (completeFrame (s.store b)) :=
  ⟨rfl, rfl, rfl⟩

theorem abandonFrame_sameSurroundings (s : State) : s.SameSurroundings (abandonFrame s) :=
  ⟨rfl, rfl, rfl⟩

theorem mapDec_sameSurroundings (g : DecScratch → DecScratch) (s : State) :
    s.SameSurroundings (s.mapDec g) :=
  ⟨rfl, rfl, rfl⟩

theorem stuffReturn_sameSurroundings (out : Bytes) (s : State) :
    s.SameSurroundings (s.stuffReturn out) :=
  ⟨rfl, rfl, rfl⟩

/-- Handing an event out lengthens every inbox and adds none. -/
theorem hand_sameSurroundings (e : OutEvent) (s : State) : s.SameSurroundings (s.hand e) :=
  ⟨rfl, by simp, rfl⟩

theorem emit_endStep_sameSurroundings (e : OutEvent) (s : State) :
    s.SameSurroundings (s.emit e).endStep :=
  ⟨rfl, rfl, rfl⟩

theorem feedByte_sameSurroundings (b : Byte) (s : State) : s.SameSurroundings (feedByte b s) := by
  obtain ⟨hparams, hinput, -, -, hinboxes, -, -⟩ := feedByte_frame b s
  exact ⟨hparams, congrArg List.length hinboxes, hinput⟩

/-- `DISPATCH` is `FEED`, then perhaps a hand-out, then the end of the step (R81). -/
theorem dispatchByte_sameSurroundings (b : Byte) (s : State) :
    s.SameSurroundings (dispatchByte b s) := by
  have hfeed := feedByte_sameSurroundings b s
  rcases dispatchByte_cases b s with ⟨-, h⟩ | ⟨f, -, h⟩ | ⟨-, h⟩ <;> rw [h]
  · exact hfeed.trans (emit_endStep_sameSurroundings _ _)
  · exact (hfeed.trans (hand_sameSurroundings _ _)).trans (emit_endStep_sameSurroundings _ _)
  · exact (hfeed.trans (hand_sameSurroundings _ _)).trans (emit_endStep_sameSurroundings _ _)

theorem dispatchChunk_sameSurroundings (bs : Bytes) (s : State) :
    s.SameSurroundings (dispatchChunk bs s) := by
  induction bs generalizing s with
  | nil => exact .refl s
  | cons b bs ih => exact (dispatchByte_sameSurroundings b s).trans (ih (dispatchByte b s))

/-! From the effect to the outcome: an operation that answers a next state answers its effect. -/

theorem State.SameSurroundings.of_next {s t u : State}
    (h : (.next u : Host.Outcome State Fault Refusal) = .next t) (hu : s.SameSurroundings u) :
    s.SameSurroundings t := by
  cases h
  exact hu

theorem State.SameSurroundings.of_selectedWhen {s t u : State} {holds : Bool} {m : String}
    (h : selectedWhen holds m u = .next t) (hu : s.SameSurroundings u) : s.SameSurroundings t := by
  obtain ⟨-, rfl⟩ := (selectedWhen_next_iff holds m u t).mp h
  exact hu

theorem State.SameSurroundings.of_onRawFrame {s t u : State} {f : Bytes}
    (h : onRawFrame f u = .next t) (hu : s.SameSurroundings u) : s.SameSurroundings t := by
  obtain ⟨-, rfl⟩ := (onRawFrame_next_iff f u t).mp h
  exact hu

/-- `FRAME` answers a next state exactly on its domain, a payload that is not empty (R93). -/
theorem execFrame_next_iff (i : Byte) (p : Bytes) (s t : State) :
    execFrame i p s = .next t ↔ 1 ≤ p.length ∧ t = s.stuffReturn (frameBytes i p) := by
  unfold execFrame
  split <;> simp_all [eq_comm]

/-- No operation changes the surroundings of a run, one case per operation of the table (R6, R113). -/
theorem exec_sameSurroundings (i : Instr) (s t : State) (h : exec i s = .next t) :
    s.SameSurroundings t := by
  cases i with
  | feed b => exact .of_next h (feedByte_sameSurroundings b s)
  | idleStart => exact .of_selectedWhen h (startFrame_sameSurroundings s)
  | idleDrop b => exact .of_selectedWhen h (feedReturn_sameSurroundings _ s)
  | frameEtxShort => exact .of_selectedWhen h (stayInFrame_store_sameSurroundings ETX s)
  | frameEtxData => exact .of_selectedWhen h (stayInFrame_store_sameSurroundings ETX s)
  | frameEtxEnd => exact .of_selectedWhen h (completeFrame_store_sameSurroundings ETX s)
  | frameAppend b => exact .of_selectedWhen h (stayInFrame_store_sameSurroundings b s)
  | frameOverflow => exact .of_selectedWhen h (abandonFrame_sameSurroundings s)
  | decode f => exact .of_onRawFrame h (mapDec_sameSurroundings _ s)
  | decId => exact .of_onRawFrame h (mapDec_sameSurroundings _ s)
  | decSlice => exact .of_onRawFrame h (mapDec_sameSurroundings _ s)
  | uDle1 => exact .of_selectedWhen h (mapDec_sameSurroundings _ s)
  | uDle2 => exact .of_selectedWhen h (mapDec_sameSurroundings _ s)
  | uCopy c => exact .of_selectedWhen h (mapDec_sameSurroundings _ s)
  | uFail c => exact .of_selectedWhen h (mapDec_sameSurroundings _ s)
  | decEndscan => exact .of_selectedWhen h (mapDec_sameSurroundings _ s)
  | decInvalid => exact .of_selectedWhen h (mapDec_sameSurroundings _ s)
  | decValid => exact .of_selectedWhen h (mapDec_sameSurroundings _ s)
  | dispatch b => exact .of_next h (dispatchByte_sameSurroundings b s)
  | deliver pkt => exact .of_next h (hand_sameSurroundings _ s)
  | feedchunk bs => exact .of_next h (dispatchChunk_sameSurroundings bs s)
  | sDouble => exact .of_next h (stuffReturn_sameSurroundings _ s)
  | sCopy c => exact .of_selectedWhen h (stuffReturn_sameSurroundings _ s)
  | stuff p => exact .of_next h (stuffReturn_sameSurroundings _ s)
  | frame k p =>
    obtain ⟨-, rfl⟩ := (execFrame_next_iff k p s t).mp h
    exact stuffReturn_sameSurroundings _ s

/-- Settles O59, from the case per operation. -/
theorem parametersNeverChange : Obligations.ParametersNeverChange := by
  intro i s t h
  obtain ⟨hparams, hconsumers, hinput⟩ := exec_sameSurroundings i s t h
  exact ⟨hparams, hconsumers, hinput⟩

/-! ### The byte a step accepts (R5, R19, R81) -/

theorem accept_of_input_cons {s : State} {b : Byte} {rest : Bytes} (h : s.input = b :: rest) :
    s.accept = some (b, { s with input := rest }) := by
  simp only [State.accept, h]

theorem step_of_input_cons {s : State} {b : Byte} {rest : Bytes} (h : s.input = b :: rest) :
    step s = exec (.dispatch b) { s with input := rest } := by
  simp only [step, accept_of_input_cons h]

theorem decodeAt_port (b : Byte) : decodeAt .port [b] = .ok (.dispatch b) := rfl

/-- Settles O33: the port reads every byte as `DISPATCH`, and the step accepts the byte at the head. -/
theorem stepRunsDispatch : Obligations.StepRunsDispatch :=
  fun _ b _ h => ⟨decodeAt_port b, step_of_input_cons h⟩

/-! ### The reset state (R6, R25, R26) -/

/-- Reset is in `Idle` with an empty buffer and no bound, so INV2 to INV4 ask nothing of it. -/
theorem reset_inv : State.reset.Inv where
  params_wf := rfl
  idle_iff_empty := ⟨fun _ => rfl, fun _ => rfl⟩
  starts_with_dle := nofun
  no_missed_end := nofun
  below_bound := nofun

theorem reset_quiet : State.reset.Quiet := ⟨rfl, rfl⟩

/-- The one consumer's inbox and the trace are both empty. -/
theorem reset_delivered : State.reset.Delivered :=
  fun _ hbox => List.mem_singleton.mp hbox

theorem reset_traceWf : State.reset.TraceWf :=
  fun _ hp => absurd hp List.not_mem_nil

/-- Settles O53, one lemma per invariant; the parameters are the reference values by definition. -/
theorem resetHasInvariantsAndReferenceParams :
    Obligations.ResetHasInvariantsAndReferenceParams :=
  ⟨reset_inv, reset_quiet, reset_delivered, reset_traceWf, rfl⟩

end Sys2Proof.Machine
end

section
/-! PROOFS. The state of the block (spec/10_state.md): what a step keeps of it, which operations
write the framing state, and the shape of a Packet. -/

namespace Sys2Proof.Machine

/-! ### The reset state (R26) -/

/-- Settles O52: reset has these values by definition. -/
theorem resetIsIdleAndEmpty : Obligations.ResetIsIdleAndEmpty :=
  ⟨rfl, rfl, rfl, rfl, rfl, rfl, rfl, rfl⟩

/-! ### A step never stops (R19, R102) -/

theorem step_of_input_nil {s : State} (h : s.input = []) : step s = .next s.hold := by
  simp only [step, State.accept, h]

/-- Settles O60: without a byte the block holds, and `DISPATCH` answers in every state. -/
theorem stepNeverStops : Obligations.StepNeverStops := by
  intro s
  cases hi : s.input with
  | nil => exact ⟨s.hold, step_of_input_nil hi, hi, rfl⟩
  | cons b rest =>
    have hsame := dispatchByte_sameSurroundings b { s with input := rest }
    exact ⟨_, step_of_input_cons hi, hsame.input, hsame.params⟩

/-! ### Nothing of a step's wire or scratch is left (R11, R15) -/

theorem endStep_quiet (s : State) : s.endStep.Quiet := ⟨rfl, rfl⟩

theorem hold_quiet {s : State} (h : s.Quiet) : s.hold.Quiet := h

/-- Every way `DISPATCH` can end goes through the end of the step (R81). -/
theorem dispatchByte_quiet (b : Byte) (s : State) : (dispatchByte b s).Quiet := by
  rcases dispatchByte_cases b s with ⟨-, h⟩ | ⟨f, -, h⟩ | ⟨-, h⟩ <;> rw [h] <;>
    exact endStep_quiet _

/-- Settles O55: an accepted byte is dispatched, and a step that holds keeps what was quiet. -/
theorem stepLeavesNoScratch : Obligations.StepLeavesNoScratch := by
  intro s t hstep hcond
  rcases step_cases s t hstep with ⟨hi, rfl⟩ | ⟨b, rest, -, rfl⟩
  · exact hold_quiet (hcond.resolve_right (fun hne => hne hi))
  · exact dispatchByte_quiet b _

/-! ### Only the FrameAssembler writes the framing state (R12, R78) -/

/-- What an operation outside the FrameAssembler can do to the state: hand back `none`, change the
Decoder's scratch, hand an event out, or return a stuffed sequence. -/
inductive NonFramingEffect (s : State) : State → Prop where
  | drop : NonFramingEffect s (s.feedReturn .none)
  | scratch (g : DecScratch → DecScratch) : NonFramingEffect s (s.mapDec g)
  | handOut (e : OutEvent) : NonFramingEffect s (s.hand e)
  | stuffed (out : Bytes) : NonFramingEffect s (s.stuffReturn out)

/-- The effect of each operation that is none of the FrameAssembler's, one case per operation. -/
theorem exec_nonFramingEffect (i : Instr) (s t : State) (hw : writesFraming i = false)
    (h : exec i s = .next t) : NonFramingEffect s t := by
  cases i with
  | feed | idleStart | frameEtxShort | frameEtxData | frameEtxEnd | frameAppend | frameOverflow
  | dispatch | feedchunk => exact nomatch hw
  | idleDrop =>
    obtain ⟨-, rfl⟩ := (selectedWhen_next_iff _ _ _ t).mp h
    exact .drop
  | decode | decId | decSlice =>
    obtain ⟨-, rfl⟩ := (onRawFrame_next_iff _ _ t).mp h
    exact .scratch _
  | uDle1 | uDle2 | uCopy | uFail | decEndscan | decInvalid | decValid =>
    obtain ⟨-, rfl⟩ := (selectedWhen_next_iff _ _ _ t).mp h
    exact .scratch _
  | deliver =>
    obtain rfl := Host.Outcome.next.inj h
    exact .handOut _
  | sDouble | stuff =>
    obtain rfl := Host.Outcome.next.inj h
    exact .stuffed _
  | sCopy =>
    obtain ⟨-, rfl⟩ := (selectedWhen_next_iff _ _ _ t).mp h
    exact .stuffed _
  | frame k p =>
    obtain ⟨-, rfl⟩ := (execFrame_next_iff k p s t).mp h
    exact .stuffed _

theorem NonFramingEffect.fs_eq {s t : State} (h : NonFramingEffect s t) : t.fs = s.fs := by
  cases h <;> rfl

theorem NonFramingEffect.buf_eq {s t : State} (h : NonFramingEffect s t) : t.buf = s.buf := by
  cases h <;> rfl

/-- Settles O13: none of the four effects writes the framing state or the buffer. -/
theorem onlyAssemblerWritesFraming : Obligations.OnlyAssemblerWritesFraming := by
  intro i s t hw h
  have heffect := exec_nonFramingEffect i s t hw h
  have hbuf := heffect.buf_eq
  exact ⟨heffect.fs_eq, congrArg List.length hbuf, fun a => congrArg (readByte · a) hbuf⟩

/-! ### What `FEED` and `DISPATCH` hand on (R54, R81) -/

/-- `FEED` returns a RawFrame only by completing the frame, and it is the whole buffer with the byte
appended (R61). -/
theorem completes_of_feedResult_frame {b : Byte} {s : State} {f : Bytes}
    (h : (feedByte b s).feedResult = .frame f) :
    s.fs = .inFrame ∧ completes b (s.buf ++ [b]) = true ∧ f = s.buf ++ [b] := by
  rcases feedByte_cases b s with ⟨-, -, e⟩ | ⟨-, -, e⟩ | ⟨hfs, hc, e⟩ |
      ⟨-, -, -, e⟩ | ⟨-, -, -, e⟩ <;>
    rw [e] at h
  · exact nomatch h
  · exact nomatch h
  · exact ⟨hfs, hc, (FeedResult.frame.inj h).symm⟩
  · exact nomatch h
  · exact nomatch h

theorem OutEvent.packet_mem_entries_iff {e : OutEvent} {pkt : Packet} :
    .packet pkt ∈ e.entries ↔ e = .packet pkt := by
  cases e <;> simp [eq_comm]

/-- The trace grows by the event of the step (R19). -/
theorem dispatchByte_trace (b : Byte) (s : State) :
    (dispatchByte b s).trace = s.trace ++ (dispatchByte b s).event.entries := by
  obtain ⟨-, -, -, htrace, -⟩ := feedByte_frame b s
  rcases dispatchByte_cases b s with ⟨-, h⟩ | ⟨f, -, h⟩ | ⟨-, h⟩ <;> simp [h, htrace]

/-- A step that emits a Packet has decoded the RawFrame that `FEED` returned (R81). -/
theorem feedResult_of_dispatchByte_event_packet {b : Byte} {s : State} {pkt : Packet}
    (h : (dispatchByte b s).event = .packet pkt) :
    ∃ f, (feedByte b s).feedResult = .frame f ∧ pkt = decodePacket s.params.endFlagCheck f := by
  obtain ⟨hparams, -⟩ := feedByte_frame b s
  rcases dispatchByte_cases b s with ⟨-, e⟩ | ⟨f, hf, e⟩ | ⟨-, e⟩ <;> rw [e] at h
  · exact nomatch h
  · exact ⟨f, hf, by simpa [hparams] using h.symm⟩
  · exact nomatch h

/-! ### The Packet of a RawFrame (R17, R18, R68) -/

/-- The scratch when the scan of `f` starts: the id and the payload slice have been taken (R68). -/
def scanStart (f : Bytes) : DecScratch :=
  decTakeSlice (decTakeId (decStart f))

theorem scanFrame_eq (endFlagCheck : Bool) (f : Bytes) :
    scanFrame endFlagCheck f = scanEnd endFlagCheck (scanBytes (framePayload f) (scanStart f)) :=
  rfl

/-- The check at the end of the scan touches no field of a valid Packet. -/
theorem validPacket_scanEnd (endFlagCheck : Bool) (d : DecScratch) :
    validPacket (scanEnd endFlagCheck d) = validPacket d := by
  unfold scanEnd
  split <;> rfl

/-- The Packet of a RawFrame is the invalid one, or carries the id, the frame and what the scan has
written (R76, R77). -/
theorem decodePacket_cases (endFlagCheck : Bool) (f : Bytes) :
    decodePacket endFlagCheck f = Packet.invalid ∨
    decodePacket endFlagCheck f =
      { isValid := true, id := frameId f, data := (scanBytes (framePayload f) (scanStart f)).out,
        rawData := f } := by
  obtain ⟨hframe, hid, -, -⟩ := scanBytes_frame (framePayload f) (scanStart f)
  unfold decodePacket packetOf
  split
  · exact .inl rfl
  · right
    rw [scanFrame_eq, validPacket_scanEnd, validPacket, hframe, hid]
    rfl

/-- One payload byte adds at most one byte to the output, and with the flag clear exactly one. -/
theorem scanNext_out_length (c : Byte) (d : DecScratch) :
    d.out.length ≤ (scanNext c d).out.length ∧ (scanNext c d).out.length ≤ d.out.length + 1 ∧
    (d.pend = false → (scanNext c d).out.length = d.out.length + 1) := by
  unfold scanNext
  rcases scanByte_cases c d with ⟨-, hp, e⟩ | ⟨-, hp, e⟩ | ⟨-, hp, e⟩ | ⟨-, hp, e⟩ <;>
    simp [e, hp, scanCopy, scanFail, scanDle1, scanDle2]

/-- The scan only appends to its output, at most one byte for each payload byte. -/
theorem scanBytes_out_length (p : Bytes) (d : DecScratch) :
    d.out.length ≤ (scanBytes p d).out.length ∧
    (scanBytes p d).out.length ≤ d.out.length + p.length := by
  induction p generalizing d with
  | nil => simp
  | cons c p ih =>
    cases hf : d.failed with
    | true => simp [scanBytes_failed _ _ hf]
    | false =>
      rw [scanBytes_cons _ _ _ hf, List.length_cons]
      obtain ⟨hge, hle, -⟩ := scanNext_out_length c d
      obtain ⟨ihge, ihle⟩ := ih (scanNext c d)
      omega

/-- The first payload byte always reaches the output, since the scan starts with the flag
clear (R26). -/
theorem one_le_scanStart_out_length (f : Bytes) (h : 1 ≤ (framePayload f).length) :
    1 ≤ (scanBytes (framePayload f) (scanStart f)).out.length := by
  cases hp : framePayload f with
  | nil => simp [hp] at h
  | cons c p =>
    rw [scanBytes_cons _ _ _ rfl]
    have hfirst := (scanNext_out_length c (scanStart f)).2.2 rfl
    have hrest := (scanBytes_out_length p (scanNext c (scanStart f))).1
    omega

theorem framePayload_length (f : Bytes) : (framePayload f).length = f.length - 4 := by
  simp only [framePayload, slice_length, countFrom]
  omega

/-- The shape of a valid Packet in the words of R17 and R18. -/
theorem Packet.wf_valid_iff (id : Byte) (data f : Bytes) :
    Packet.wf { isValid := true, id := id, data := data, rawData := f } = true ↔
      5 ≤ f.length ∧ f[0]? = some DLE ∧ f[1]? = some id ∧ f[f.length - 1]? = some ETX ∧
      1 ≤ data.length ∧ data.length ≤ f.length - 4 := by
  simp [Packet.wf, minFrame, and_assoc]

theorem Packet.wf_invalid : Packet.invalid.wf = true := rfl

/-- The Packet of a RawFrame of at least five bytes between its markers has the shape of R17 and
R18. -/
theorem decodePacket_wf (endFlagCheck : Bool) (f : Bytes) (hlen : 5 ≤ f.length)
    (hfirst : f[0]? = some DLE) (hlast : f[f.length - 1]? = some ETX) :
    (decodePacket endFlagCheck f).wf = true := by
  rcases decodePacket_cases endFlagCheck f with h | h <;> rw [h]
  · exact Packet.wf_invalid
  · have hpayload := framePayload_length f
    have hout := (scanBytes_out_length (framePayload f) (scanStart f)).2
    have hstart : (scanStart f).out.length = 0 := rfl
    exact (Packet.wf_valid_iff _ _ _).mpr ⟨hlen, hfirst, getElem?_frameId f (by omega), hlast,
      one_le_scanStart_out_length f (by omega), by omega⟩

/-- In a frame that began with the start marker, a Packet that `DISPATCH` emits has the shape of R17
and R18: its RawFrame is the buffer with the completing `ETX` appended. -/
theorem dispatchByte_packet_wf {b : Byte} {s : State} {pkt : Packet}
    (hstart : s.fs = .inFrame → s.buf[0]? = some DLE)
    (h : (dispatchByte b s).event = .packet pkt) : pkt.wf = true := by
  obtain ⟨f, hf, rfl⟩ := feedResult_of_dispatchByte_event_packet h
  obtain ⟨hfs, hc, rfl⟩ := completes_of_feedResult_frame hf
  obtain ⟨rfl, hlen, -⟩ := (completes_iff _ _).mp hc
  have hbuf : 4 ≤ s.buf.length := by simpa using hlen
  have hfirst : (s.buf ++ [ETX])[0]? = some DLE := by
    rw [List.getElem?_append_left (by omega)]
    exact hstart hfs
  exact decodePacket_wf _ _ hlen hfirst (by simp)

/-- Settles O57: the trace grows by the event of the step, and a Packet in that event has the
shape. -/
theorem stepKeepsPacketsWellFormed : Obligations.StepKeepsPacketsWellFormed := by
  intro s t hinv htrace hstep
  rcases step_cases s t hstep with ⟨-, rfl⟩ | ⟨b, rest, -, rfl⟩
  · exact htrace
  · intro pkt hmem
    rw [dispatchByte_trace, List.mem_append] at hmem
    rcases hmem with hold | hnew
    · exact htrace pkt hold
    · exact dispatchByte_packet_wf (s := { s with input := rest }) hinv.starts_with_dle
        (OutEvent.packet_mem_entries_iff.mp hnew)

end Sys2Proof.Machine
end

section
/-! PROOFS. The round trip of one frame (R66, R93, R95): the FrameAssembler meets no completion and
no overflow before the last byte, and the Decoder undoes the stuffing. -/

namespace Sys2Proof.Machine

/-! ### Scanning a stuffed payload gives the payload back (R92, R94) -/

/-- Between two stuffed bytes the scan is clear: nothing has failed and no escape is pending. -/
structure DecScratch.Clear (d : DecScratch) : Prop where
  not_failed : d.failed = false
  not_pending : d.pend = false

/-- The scan of the bytes one payload byte is sent as writes that byte and ends clear. -/
theorem scanBytes_stuffByte (c : Byte) {d : DecScratch} (h : d.Clear) :
    (scanBytes (stuffByte c) d).Clear ∧ (scanBytes (stuffByte c) d).out = d.out ++ [c] := by
  obtain ⟨hf, hp⟩ := h
  by_cases hc : c = DLE
  · subst hc
    have hscan : scanBytes (stuffByte DLE) d =
        { d with out := d.out ++ [DLE], pend := false, k := d.k + 2 } := by
      simp [stuffByte, scanBytes, scanNext, scanByte, scanDle1, scanDle2, hf, hp]
    rw [hscan]
    exact ⟨⟨hf, rfl⟩, rfl⟩
  · have hscan : scanBytes (stuffByte c) d = { d with out := d.out ++ [c], k := d.k + 1 } := by
      simp [stuffByte, scanBytes, scanNext, scanByte, scanCopy, hf, hp, hc]
    rw [hscan]
    exact ⟨⟨hf, hp⟩, rfl⟩

theorem scanBytes_stuffBytes (p : Bytes) {d : DecScratch} (h : d.Clear) :
    (scanBytes (stuffBytes p) d).Clear ∧ (scanBytes (stuffBytes p) d).out = d.out ++ p := by
  induction p generalizing d with
  | nil => simpa [stuffBytes] using h
  | cons c p ih =>
    obtain ⟨hclear, hout⟩ := scanBytes_stuffByte c h
    rw [stuffBytes, scanBytes_append]
    simpa [hout] using ih hclear

/-- The end of the scan changes nothing where no escape is pending (R75). -/
theorem scanEnd_of_not_pending (endFlagCheck : Bool) {d : DecScratch} (h : d.pend = false) :
    scanEnd endFlagCheck d = d := by
  simp [scanEnd, h]

/-! ### The fields of a frame on the wire (R49, R93) -/

theorem framePayload_frameBytes (i : Byte) (p : Bytes) :
    framePayload (frameBytes i p) = stuffBytes p := by
  simp [framePayload, frameBytes, slice, countFrom]

/-- The Packet that the frame of an id and a payload stands for (R94). -/
def framedPacket (i : Byte) (p : Bytes) : Packet :=
  { isValid := true, id := i, data := p, rawData := frameBytes i p }

/-- Decoding the frame of an id and a payload gives them back, whether or not the end of the scan is
checked: the scan ends with no escape pending (R94). -/
theorem decodePacket_frameBytes (endFlagCheck : Bool) (i : Byte) (p : Bytes) :
    decodePacket endFlagCheck (frameBytes i p) = framedPacket i p := by
  have hstart : (scanStart (frameBytes i p)).Clear := ⟨rfl, rfl⟩
  obtain ⟨⟨hfailed, hpend⟩, hout⟩ := scanBytes_stuffBytes p hstart
  obtain ⟨hframe, hid, -, -⟩ := scanBytes_frame (stuffBytes p) (scanStart (frameBytes i p))
  rw [decodePacket, scanFrame_eq, framePayload_frameBytes, scanEnd_of_not_pending _ hpend, packetOf,
    if_neg (by simp [hfailed]), validPacket, hframe, hid, hout]
  rfl

/-- A payload is sent as its bytes and one more for each `DLE` (R92). -/
theorem stuffBytes_length (p : Bytes) : (stuffBytes p).length = p.length + p.count DLE := by
  induction p with
  | nil => rfl
  | cons c p ih =>
    rw [stuffBytes, List.length_append, ih, stuffByte]
    by_cases hc : c = DLE <;> simp [hc] <;> omega

theorem frameBytes_length (i : Byte) (p : Bytes) :
    (frameBytes i p).length = p.length + p.count DLE + 4 := by
  simp [frameBytes, stuffBytes_length]

/-! ### The length bound (R62) -/

/-- A buffer of this length has not reached the bound `MAX_FRAME_LEN`. -/
def State.Below (s : State) (len : Nat) : Prop :=
  ∀ n, s.params.maxFrameLen = some n → len < n

theorem State.Below.mono {s : State} {len len' : Nat} (h : s.Below len') (hle : len ≤ len') :
    s.Below len :=
  fun n hn => Nat.lt_of_le_of_lt hle (h n hn)

theorem overflows_of_below {s : State} {buf : Bytes} (h : s.Below buf.length) :
    overflows s.params buf = false := by
  rw [Bool.eq_false_iff, ne_eq, overflows_iff]
  rintro ⟨n, hn, hle⟩
  exact absurd (h n hn) (by omega)

/-! ### Bytes that stay in the frame (R58, R59, R60) -/

/-- The state in the middle of a frame that began in `s` and whose buffer is `buf`, between two
`DISPATCH`es. -/
def State.midFrame (s : State) (buf : Bytes) : State :=
  { s with fs := .inFrame, buf := buf, event := .none, feedResult := .none,
           dec := DecScratch.initial }

/-- The state after a `DISPATCH` in a frame that began in `s` has emitted this Packet: it is the
event, every consumer is handed it, and the block is back in `(Idle, [])` (R61, R81, R82). -/
def State.afterPacket (s : State) (pkt : Packet) : State :=
  { s with fs := .idle, buf := [], event := .packet pkt, trace := s.trace ++ [.packet pkt],
           inboxes := s.inboxes.map (· ++ [.packet pkt]), feedResult := .none,
           dec := DecScratch.initial }

theorem feedByte_of_start {s : State} (hfs : s.fs = .idle) : feedByte DLE s = startFrame s := by
  simp [feedByte, hfs]

theorem feedByte_of_completes {b : Byte} {s : State} (hfs : s.fs = .inFrame)
    (hc : completes b (s.buf ++ [b]) = true) : feedByte b s = completeFrame (s.store b) := by
  simp [feedByte, hfs, hc]

theorem feedByte_of_stays {b : Byte} {s : State} (hfs : s.fs = .inFrame)
    (hc : completes b (s.buf ++ [b]) = false) (ho : overflows s.params (s.buf ++ [b]) = false) :
    feedByte b s = stayInFrame (s.store b) := by
  simp [feedByte, hfs, hc, ho]

theorem State.emit_none (s : State) : s.emit .none = { s with event := .none } := by
  simp [State.emit]

theorem dispatchByte_of_feedResult_none {b : Byte} {s : State}
    (h : (feedByte b s).feedResult = .none) :
    dispatchByte b s = { feedByte b s with event := .none }.endStep := by
  simp only [dispatchByte, h, State.emit_none]

theorem dispatchByte_start {s : State} (hfs : s.fs = .idle) :
    dispatchByte DLE s = s.midFrame [DLE] := by
  have hfeed := feedByte_of_start hfs
  rw [dispatchByte_of_feedResult_none (by rw [hfeed]; rfl), hfeed]
  rfl

theorem dispatchByte_stays {b : Byte} {s : State} {buf : Bytes}
    (hc : completes b (buf ++ [b]) = false) (hb : s.Below (buf.length + 1)) :
    dispatchByte b (s.midFrame buf) = s.midFrame (buf ++ [b]) := by
  have ho : overflows s.params (buf ++ [b]) = false := overflows_of_below (by simpa using hb)
  have hfeed := feedByte_of_stays (s := s.midFrame buf) rfl hc ho
  rw [dispatchByte_of_feedResult_none (by rw [hfeed]; rfl), hfeed]
  rfl

theorem dispatchByte_completes {b : Byte} {s : State} {buf : Bytes}
    (hc : completes b (buf ++ [b]) = true) :
    dispatchByte b (s.midFrame buf) =
      s.afterPacket (decodePacket s.params.endFlagCheck (buf ++ [b])) := by
  have hfeed := feedByte_of_completes (s := s.midFrame buf) rfl hc
  simp only [dispatchByte, hfeed]
  rfl

/-! Which bytes cannot complete a frame (R54). -/

theorem completes_of_ne_etx {b : Byte} {buf : Bytes} (h : b ≠ ETX) : completes b buf = false := by
  simp [completes, h]

theorem completes_of_short {b : Byte} {buf : Bytes} (h : buf.length < 5) :
    completes b buf = false := by
  simp [completes, minFrame, h]

/-- An `ETX` is not counted, so after an even count it does not complete (R55, R60). -/
theorem completes_of_even {b : Byte} {buf : Bytes} (h : countParity buf = false) :
    completes b (buf ++ [b]) = false := by
  by_cases hb : b = ETX
  · subst hb
    simp [completes, countParity_append_one, h, ETX, DLE]
  · exact completes_of_ne_etx hb

/-! ### A stuffed payload inside a frame (R66) -/

theorem dispatchChunk_append (x y : Bytes) (s : State) :
    dispatchChunk (x ++ y) s = dispatchChunk y (dispatchChunk x s) :=
  List.foldl_append

theorem dispatchChunk_nil (s : State) : dispatchChunk [] s = s := rfl

theorem dispatchChunk_cons (b : Byte) (bs : Bytes) (s : State) :
    dispatchChunk (b :: bs) s = dispatchChunk bs (dispatchByte b s) := rfl

/-- The bytes of one payload byte, from an even count: they stay in the frame and leave it even. -/
theorem dispatchChunk_stuffByte {c : Byte} {s : State} {buf : Bytes}
    (h2 : 2 ≤ buf.length) (heven : countParity buf = false)
    (hb : s.Below (buf ++ stuffByte c).length) :
    dispatchChunk (stuffByte c) (s.midFrame buf) = s.midFrame (buf ++ stuffByte c) ∧
    countParity (buf ++ stuffByte c) = false := by
  by_cases hc : c = DLE
  · have hpair : buf ++ stuffByte c = (buf ++ [DLE]) ++ [DLE] := by simp [stuffByte, hc]
    rw [hpair] at hb ⊢
    have hne : DLE ≠ ETX := by decide
    constructor
    · rw [stuffByte, if_pos hc, dispatchChunk_cons, dispatchChunk_cons, dispatchChunk_nil,
        dispatchByte_stays (completes_of_ne_etx hne) (hb.mono (by simp)),
        dispatchByte_stays (completes_of_ne_etx hne) (hb.mono (by simp))]
    · rw [countParity_append_one, countParity_append_one, heven]
      simp [h2, Nat.le_succ_of_le h2]
  · have hone : stuffByte c = [c] := by simp [stuffByte, hc]
    rw [hone] at hb ⊢
    refine ⟨dispatchByte_stays (completes_of_even heven) (hb.mono (by simp)), ?_⟩
    simp [countParity_append_one, heven, hc]

theorem dispatchChunk_stuffBytes {p : Bytes} {s : State} {buf : Bytes}
    (h2 : 2 ≤ buf.length) (heven : countParity buf = false)
    (hb : s.Below (buf ++ stuffBytes p).length) :
    dispatchChunk (stuffBytes p) (s.midFrame buf) = s.midFrame (buf ++ stuffBytes p) ∧
    countParity (buf ++ stuffBytes p) = false := by
  induction p generalizing buf with
  | nil => simpa [stuffBytes, dispatchChunk] using heven
  | cons c p ih =>
    rw [stuffBytes, ← List.append_assoc] at hb ⊢
    obtain ⟨hrun, heven'⟩ := dispatchChunk_stuffByte (c := c) h2 heven (hb.mono (by simp))
    rw [dispatchChunk_append, hrun]
    exact ih (by simp; omega) heven' hb

/-! ### The whole frame -/

/-- All of a frame but its last byte. -/
def frameFront (i : Byte) (p : Bytes) : Bytes :=
  [DLE, i] ++ stuffBytes p ++ [DLE]

theorem frameBytes_eq_front (i : Byte) (p : Bytes) : frameBytes i p = frameFront i p ++ [ETX] := by
  simp [frameBytes, frameFront]

theorem frameBytes_dropLast (i : Byte) (p : Bytes) :
    (frameBytes i p).dropLast = frameFront i p := by
  rw [frameBytes_eq_front, List.dropLast_concat]

/-- Before its last byte a frame within the bound gives nothing: the block is in the frame, with all
of it in the buffer, and the trailer's `DLE` has made the count odd (R66). -/
theorem dispatchChunk_frameFront {i : Byte} {p : Bytes} {s : State} (hfs : s.fs = .idle)
    (hb : s.Below (frameFront i p).length) :
    dispatchChunk (frameFront i p) s = s.midFrame (frameFront i p) ∧
    countParity (frameFront i p) = true := by
  have hbody : s.Below ([DLE, i] ++ stuffBytes p).length :=
    hb.mono (by simp [frameFront])
  have hhead : dispatchChunk [DLE, i] s = s.midFrame [DLE, i] := by
    rw [dispatchChunk_cons, dispatchByte_start hfs, dispatchChunk_cons,
      dispatchByte_stays (completes_of_short (by simp)) (hbody.mono (by simp))]
    rfl
  obtain ⟨hpayload, heven⟩ :=
    dispatchChunk_stuffBytes (buf := [DLE, i]) (Nat.le_refl 2) rfl hbody
  have hlast := dispatchByte_stays (b := DLE) (buf := [DLE, i] ++ stuffBytes p)
    (completes_of_ne_etx (by decide)) (hb.mono (by simp [frameFront]))
  constructor
  · rw [frameFront, dispatchChunk_append, dispatchChunk_append, hhead, hpayload]
    exact hlast
  · rw [frameFront, countParity_append_one, heven]
    simp

/-- The last byte of a frame completes it: the length is at least five and the count is odd
(R61). -/
theorem completes_frameFront {i : Byte} {p : Bytes} (hp : 1 ≤ p.length)
    (hodd : countParity (frameFront i p) = true) :
    completes ETX (frameFront i p ++ [ETX]) = true := by
  have hlen := frameBytes_length i p
  rw [frameBytes_eq_front] at hlen
  have hparity : countParity (frameFront i p ++ [ETX]) = true := by
    simp [countParity_append_one, hodd, ETX, DLE]
  simp only [completes, hlen, hparity, minFrame, beq_self_eq_true, Bool.true_and, Bool.and_true,
    decide_eq_true_eq]
  omega

/-- A frame no longer than the bound reaches it at its last byte at the earliest (R62). -/
theorem below_frameFront {i : Byte} {p : Bytes} {s : State}
    (h : ∀ n, s.params.maxFrameLen = some n → (frameBytes i p).length ≤ n) :
    s.Below (frameFront i p).length := by
  intro n hn
  have hle := h n hn
  rw [frameBytes_eq_front, List.length_append, List.length_singleton] at hle
  exact hle

/-- A frame within the bound, fed from `(Idle, [])`, gives its Packet and ends there (R66). -/
theorem dispatchChunk_frameBytes {i : Byte} {p : Bytes} {s : State} (hfs : s.fs = .idle)
    (hp : 1 ≤ p.length) (hb : s.Below (frameFront i p).length) :
    dispatchChunk (frameBytes i p) s = s.afterPacket (framedPacket i p) := by
  obtain ⟨hfront, hodd⟩ := dispatchChunk_frameFront hfs hb
  rw [frameBytes_eq_front, dispatchChunk_append, hfront, dispatchChunk_cons,
    dispatchByte_completes (completes_frameFront hp hodd), dispatchChunk_nil,
    ← frameBytes_eq_front, decodePacket_frameBytes]

/-- Settles O47: all bytes but the last stay in the frame, the last completes it, and the Packet
decoded from it is the one that was framed. -/
theorem frameRoundTripsEndToEnd : Obligations.FrameRoundTripsEndToEnd := by
  intro s i p hfs hbuf hp hbound
  have hfits : s.Below (frameFront i p).length := by
    refine below_frameFront fun n hn => ?_
    have hle := hbound n hn
    rw [cnt_whole, List.drop_zero] at hle
    exact (frameBytes_length i p).trans_le hle
  have hfront : exec (.feedchunk (frameBytes i p).dropLast) s =
      .next (s.midFrame (frameFront i p)) := by
    rw [frameBytes_dropLast, ← (dispatchChunk_frameFront hfs hfits).1]
    rfl
  have hwhole : exec (.feedchunk (frameBytes i p)) s =
      .next (s.afterPacket (framedPacket i p)) := by
    rw [← dispatchChunk_frameBytes hfs hp hfits]
    rfl
  refine ⟨s.stuffReturn (frameBytes i p), s.midFrame (frameFront i p),
    s.afterPacket (framedPacket i p), framedPacket i p,
    (execFrame_next_iff i p s _).mpr ⟨hp, rfl⟩, rfl, hfront, rfl, rfl, rfl, hwhole, ?_⟩
  rw [State.afterPacket, ← hfs, ← hbuf]

end Sys2Proof.Machine
end

section
/-! PROOFS. The buffer as memory (spec/20_memory.md): the appending operations store at address
`len(buf)` and nowhere else. -/

namespace Sys2Proof.Machine

/-- Staying in the frame writes only what `FEED` returns, so the append before it is the store of an
appending operation (R58, R59, R60). -/
@[simp] theorem stayInFrame_buf (s : State) : (stayInFrame s).buf = s.buf := rfl

/-- The operations of R29 that append a byte to a frame already begun. -/
inductive AppendsInFrame : Instr → Byte → Prop where
  | append (b : Byte) : AppendsInFrame (.frameAppend b) b
  | etxShort : AppendsInFrame .frameEtxShort ETX
  | etxData : AppendsInFrame .frameEtxData ETX

/-- Where it is selected, each of them stores its byte and stays in the frame. -/
theorem AppendsInFrame.next_eq {i : Instr} {b : Byte} {s t : State} (hi : AppendsInFrame i b)
    (h : exec i s = .next t) : t = stayInFrame (s.store b) := by
  cases hi with
  | append => exact ((selectedWhen_next_iff _ _ _ t).mp h).2
  | etxShort => exact ((selectedWhen_next_iff _ _ _ t).mp h).2
  | etxData => exact ((selectedWhen_next_iff _ _ _ t).mp h).2

/-- Settles O12: the new buffer is that of the one store, read by the laws of the append. -/
theorem appendStoresAtLengthOnly : Obligations.AppendStoresAtLengthOnly := by
  intro s t i b hi h
  have happends : AppendsInFrame i b := by
    rcases hi with rfl | ⟨rfl, rfl⟩ | ⟨rfl, rfl⟩
    · exact .append b
    · exact .etxShort
    · exact .etxData
  have hbuf : t.buf = (s.store b).buf := by rw [happends.next_eq h, stayInFrame_buf]
  rw [hbuf]
  exact ⟨readByte_store_self s b, by simp, readByte_store_other s b⟩

end Sys2Proof.Machine
end

section
/-! PROOFS. The encoding (spec/30_encoding.md): the decoder reads an operation exactly where the table
selects it, and a byte selects exactly one row, by its class. -/

namespace Sys2Proof

/-! ### What each condition of the table asks of a site (R48, R53) -/

theorem Site.eq_of_isIdle {site : Site} (h : site.isIdle = true) :
    ∃ len odd, site = .assembler .idle len odd := by
  unfold Site.isIdle at h
  split at h
  · exact ⟨_, _, rfl⟩
  · exact nomatch h

theorem Site.eq_of_isInFrame {site : Site} (h : site.isInFrame = true) :
    ∃ len odd, site = .assembler .inFrame len odd := by
  unfold Site.isInFrame at h
  split at h
  · exact ⟨_, _, rfl⟩
  · exact nomatch h

theorem Site.eq_of_isShort {site : Site} (h : site.isShort = true) :
    ∃ len odd, site = .assembler .inFrame len odd ∧ len < 5 := by
  unfold Site.isShort at h
  split at h
  · exact ⟨_, _, rfl, of_decide_eq_true h⟩
  · exact nomatch h

theorem Site.eq_of_isFull {countOdd : Bool} {site : Site} (h : site.isFull countOdd = true) :
    ∃ len, site = .assembler .inFrame len countOdd ∧ ¬ len < 5 := by
  unfold Site.isFull at h
  split at h
  · obtain ⟨hlen, rfl⟩ : minFrame ≤ _ ∧ _ = countOdd := by simpa using h
    exact ⟨_, rfl, Nat.not_lt.mpr hlen⟩
  · exact nomatch h

theorem Site.eq_of_isOverflow {site : Site} (h : site.isOverflow = true) :
    ∃ len bound, site = .guard len bound := by
  unfold Site.isOverflow at h
  split at h
  · exact ⟨_, _, rfl⟩
  · exact nomatch h

/-! ### The decoder reads an operation exactly where the table selects it -/

/-- What the table asks of an operation that stands for these bytes at this site: its operands lie in
their domain, the site selects its row, and the bytes are its encoding (R48, R53). -/
def Instr.Fits (i : Instr) (site : Site) (word : Bytes) : Prop :=
  i.wf = true ∧ i.selectedAt site = true ∧ encode i = word

/-- Decoding an encoding, one case per operation: the conditions of its row fix the site's form, and
there the byte or the operands lead back to the row. -/
theorem decodeAt_of_fits {i : Instr} {site : Site} {word : Bytes} (h : i.Fits site word) :
    decodeAt site word = .ok i := by
  obtain ⟨hwf, hsel, rfl⟩ := h
  cases i with
  | feed | decId | decSlice | decEndscan | decInvalid | decValid | dispatch | feedchunk | stuff =>
    obtain rfl := eq_of_beq hsel
    rfl
  | idleStart =>
    obtain ⟨len, odd, rfl⟩ := Site.eq_of_isIdle hsel
    exact decodeByte_idle len odd DLE
  | idleDrop b =>
    obtain ⟨len, odd, rfl⟩ := Site.eq_of_isIdle hsel
    have hb : b ≠ DLE := bne_iff_ne.mp hwf
    exact (decodeByte_idle len odd b).trans (by rw [if_neg hb])
  | frameEtxShort =>
    obtain ⟨len, odd, rfl, hlen⟩ := Site.eq_of_isShort hsel
    exact (decodeByte_inFrame len odd ETX).trans (by rw [if_pos rfl, if_pos hlen])
  | frameEtxData =>
    obtain ⟨len, rfl, hlen⟩ := Site.eq_of_isFull hsel
    exact (decodeByte_inFrame len false ETX).trans (by rw [if_pos rfl, if_neg hlen]; rfl)
  | frameEtxEnd =>
    obtain ⟨len, rfl, hlen⟩ := Site.eq_of_isFull hsel
    exact (decodeByte_inFrame len true ETX).trans (by rw [if_pos rfl, if_neg hlen]; rfl)
  | frameAppend b =>
    obtain ⟨len, odd, rfl⟩ := Site.eq_of_isInFrame hsel
    have hb : b ≠ ETX := bne_iff_ne.mp hwf
    exact (decodeByte_inFrame len odd b).trans (by rw [if_neg hb])
  | frameOverflow =>
    obtain ⟨len, bound, rfl⟩ := Site.eq_of_isOverflow hsel
    exact (noByte_ok_iff _ _ _).mpr ⟨rfl, if_pos hsel⟩
  | decode f =>
    obtain rfl := eq_of_beq hsel
    exact if_pos (of_decide_eq_true hwf)
  | uDle1 =>
    obtain rfl := eq_of_beq hsel
    exact decodeByte_unstuff false DLE
  | uDle2 =>
    obtain rfl := eq_of_beq hsel
    exact decodeByte_unstuff true DLE
  | uCopy c =>
    obtain rfl := eq_of_beq hsel
    have hc : c ≠ DLE := bne_iff_ne.mp hwf
    exact (decodeByte_unstuff false c).trans (by rw [if_neg hc]; rfl)
  | uFail c =>
    obtain rfl := eq_of_beq hsel
    have hc : c ≠ DLE := bne_iff_ne.mp hwf
    exact (decodeByte_unstuff true c).trans (by rw [if_neg hc]; rfl)
  | deliver pkt =>
    obtain rfl := eq_of_beq hsel
    exact (noByte_ok_iff _ _ _).mpr ⟨rfl, if_pos hwf⟩
  | sDouble =>
    obtain rfl := eq_of_beq hsel
    exact decodeByte_stuff DLE
  | sCopy c =>
    obtain rfl := eq_of_beq hsel
    have hc : c ≠ DLE := bne_iff_ne.mp hwf
    exact (decodeByte_stuff c).trans (by rw [if_neg hc])
  | frame k p =>
    obtain rfl := eq_of_beq hsel
    cases p with
    | nil => exact nomatch hwf
    | cons c p => rfl

/-! What the decoder reads at each BYTE site fits there. -/

theorem fits_idle (len : Nat) (odd : Bool) (b : Byte) :
    (if b = DLE then Instr.idleStart else .idleDrop b).Fits (.assembler .idle len odd) [b] := by
  split
  next hb =>
    subst hb
    exact ⟨rfl, rfl, rfl⟩
  next hb => exact ⟨bne_iff_ne.mpr hb, rfl, rfl⟩

theorem fits_inFrame (len : Nat) (odd : Bool) (b : Byte) :
    (if b = ETX then
       if len < 5 then Instr.frameEtxShort else if odd then .frameEtxEnd else .frameEtxData
     else .frameAppend b).Fits (.assembler .inFrame len odd) [b] := by
  split
  next hb =>
    subst hb
    split
    next hlen => exact ⟨rfl, decide_eq_true hlen, rfl⟩
    next hlen =>
      have hfull : (Site.assembler .inFrame len odd).isFull odd = true := by
        simpa [Site.isFull] using Nat.not_lt.mp hlen
      cases odd with
      | true => exact ⟨rfl, hfull, rfl⟩
      | false => exact ⟨rfl, hfull, rfl⟩
  next hb => exact ⟨bne_iff_ne.mpr hb, rfl, rfl⟩

theorem fits_unstuff (pend : Bool) (c : Byte) :
    (if c = DLE then (if pend then Instr.uDle2 else .uDle1)
     else (if pend then .uFail c else .uCopy c)).Fits (.unstuff pend) [c] := by
  split
  next hc =>
    subst hc
    cases pend with
    | true => exact ⟨rfl, rfl, rfl⟩
    | false => exact ⟨rfl, rfl, rfl⟩
  next hc =>
    cases pend with
    | true => exact ⟨bne_iff_ne.mpr hc, rfl, rfl⟩
    | false => exact ⟨bne_iff_ne.mpr hc, rfl, rfl⟩

theorem fits_stuff (c : Byte) :
    (if c = DLE then Instr.sDouble else .sCopy c).Fits .stuff [c] := by
  split
  next hc =>
    subst hc
    exact ⟨rfl, rfl, rfl⟩
  next hc => exact ⟨bne_iff_ne.mpr hc, rfl, rfl⟩

/-- Encoding what was decoded, one case per site. -/
theorem fits_of_decodeAt {site : Site} {word : Bytes} {i : Instr}
    (h : decodeAt site word = .ok i) : i.Fits site word := by
  cases site with
  | port | feedPort =>
    obtain ⟨b, rfl, hb⟩ := (oneByte_ok_iff _ _ _).mp h
    obtain rfl := Except.ok.inj hb
    exact ⟨rfl, rfl, rfl⟩
  | chunkPort | stuffPort =>
    obtain rfl := Except.ok.inj h
    exact ⟨rfl, rfl, rfl⟩
  | assembler fs len odd =>
    obtain ⟨b, rfl, hb⟩ := (oneByte_ok_iff _ _ _).mp h
    cases fs with
    | idle =>
      rw [decodeByte_idle] at hb
      obtain rfl := Except.ok.inj hb
      exact fits_idle len odd b
    | inFrame =>
      rw [decodeByte_inFrame] at hb
      obtain rfl := Except.ok.inj hb
      exact fits_inFrame len odd b
  | guard len bound =>
    obtain ⟨rfl, hop⟩ := (noByte_ok_iff _ _ _).mp h
    split at hop
    next hfires =>
      obtain rfl := Except.ok.inj hop
      exact ⟨rfl, hfires, rfl⟩
    next => exact nomatch hop
  | decoderPort =>
    by_cases hlen : minFrame ≤ word.length
    · obtain rfl := Except.ok.inj ((if_pos hlen).symm.trans h)
      exact ⟨decide_eq_true hlen, rfl, rfl⟩
    · exact nomatch (if_neg hlen).symm.trans h
  | decodeId | decodeSlice | scanEnd =>
    obtain ⟨rfl, hop⟩ := (noByte_ok_iff _ _ _).mp h
    obtain rfl := Except.ok.inj hop
    exact ⟨rfl, rfl, rfl⟩
  | unstuff pend =>
    obtain ⟨c, rfl, hc⟩ := (oneByte_ok_iff _ _ _).mp h
    rw [decodeByte_unstuff] at hc
    obtain rfl := Except.ok.inj hc
    exact fits_unstuff pend c
  | verdict failed =>
    obtain ⟨rfl, hop⟩ := (noByte_ok_iff _ _ _).mp h
    obtain rfl := Except.ok.inj hop
    cases failed with
    | true => exact ⟨rfl, rfl, rfl⟩
    | false => exact ⟨rfl, rfl, rfl⟩
  | delivery pkt =>
    obtain ⟨rfl, hop⟩ := (noByte_ok_iff _ _ _).mp h
    split at hop
    next hwf =>
      obtain rfl := Except.ok.inj hop
      exact ⟨hwf, beq_self_eq_true _, rfl⟩
    next => exact nomatch hop
  | framePort =>
    obtain ⟨k, c, p, rfl, rfl⟩ := (decodeFrameOperands_ok_iff _ _).mp h
    exact ⟨decide_eq_true (Nat.le_add_left 1 p.length), rfl, rfl⟩
  | stuff =>
    obtain ⟨c, rfl, hc⟩ := (oneByte_ok_iff _ _ _).mp h
    rw [decodeByte_stuff] at hc
    obtain rfl := Except.ok.inj hc
    exact fits_stuff c

/-- Settles O51: what the decoder reads fits. -/
theorem encodeOfDecodeIsIdentity : Obligations.EncodeOfDecodeIsIdentity :=
  fun _ _ _ h => fits_of_decodeAt h

/-- A site that selects the operation (R47). -/
def Instr.homeSite : Instr → Site
  | .feed _ => .feedPort
  | .idleStart | .idleDrop _ => .assembler .idle 1 false
  | .frameEtxShort | .frameAppend _ => .assembler .inFrame 2 false
  | .frameEtxData => .assembler .inFrame 5 false
  | .frameEtxEnd => .assembler .inFrame 5 true
  | .frameOverflow => .guard 5 (some 5)
  | .decode _ => .decoderPort
  | .decId => .decodeId
  | .decSlice => .decodeSlice
  | .uDle1 | .uCopy _ => .unstuff false
  | .uDle2 | .uFail _ => .unstuff true
  | .decEndscan => .scanEnd
  | .decInvalid => .verdict true
  | .decValid => .verdict false
  | .dispatch _ => .port
  | .deliver pkt => .delivery pkt
  | .feedchunk _ => .chunkPort
  | .sDouble | .sCopy _ => .stuff
  | .stuff _ => .stuffPort
  | .frame _ _ => .framePort

theorem Instr.selectedAt_homeSite (i : Instr) : i.selectedAt i.homeSite = true := by
  cases i with
  | deliver pkt => exact beq_self_eq_true (Site.delivery pkt)
  | _ => rfl

theorem decodeAt_encode {site : Site} {i : Instr} (hwf : i.wf = true)
    (hsel : i.selectedAt site = true) : decodeAt site (encode i) = .ok i :=
  decodeAt_of_fits ⟨hwf, hsel, rfl⟩

/-- Settles O50: the home site selects the operation, and wherever it is selected its encoding fits. -/
theorem decodeOfEncodeIsIdentity : Obligations.DecodeOfEncodeIsIdentity :=
  fun i hwf => ⟨⟨i.homeSite, i.selectedAt_homeSite⟩, fun _ hsel => decodeAt_encode hwf hsel⟩

/-- Settles O49: each word is the encoding of its operation, at a site that selects it. -/
theorem tableWordsDecode : Obligations.TableWordsDecode :=
  ⟨decodeAt_encode (i := .idleStart) rfl rfl, decodeAt_encode (i := .idleDrop 0x03) rfl rfl,
    decodeAt_encode (i := .frameEtxShort) rfl rfl, decodeAt_encode (i := .frameEtxData) rfl rfl,
    decodeAt_encode (i := .frameEtxEnd) rfl rfl, decodeAt_encode (i := .frameAppend 0x10) rfl rfl,
    decodeAt_encode (i := .uDle1) rfl rfl, decodeAt_encode (i := .uDle2) rfl rfl,
    decodeAt_encode (i := .sDouble) rfl rfl⟩

/-! ### Exactly one row applies to a byte, by its class (R44, R48) -/

/-- Where the decoder reads an operation, that operation alone fits. -/
theorem existsUnique_fits_of_decodeAt {site : Site} {word : Bytes} {i : Instr}
    (h : decodeAt site word = .ok i) : ∃! j : Instr, j.Fits site word :=
  ⟨i, fits_of_decodeAt h,
    fun _ hj => Except.ok.inj ((decodeAt_of_fits hj).symm.trans h)⟩

/-- Settles O10: at every BYTE site the decoder reads every byte. -/
theorem exactlyOneByteRowApplies : Obligations.ExactlyOneByteRowApplies := by
  intro b
  refine ⟨fun fs len odd => ?_, fun pend => ?_, ?_⟩
  · cases fs with
    | idle => exact existsUnique_fits_of_decodeAt (decodeByte_idle len odd b)
    | inFrame => exact existsUnique_fits_of_decodeAt (decodeByte_inFrame len odd b)
  · exact existsUnique_fits_of_decodeAt (decodeByte_unstuff pend b)
  · exact existsUnique_fits_of_decodeAt (decodeByte_stuff b)

theorem byteClass_eq_dle_iff (b : Byte) : Machine.byteClass b = .dle ↔ b = DLE := by
  unfold Machine.byteClass
  split
  next hb => simp [hb]
  next hb => split <;> simp [hb]

theorem byteClass_eq_etx_iff (b : Byte) : Machine.byteClass b = .etx ↔ b = ETX := by
  unfold Machine.byteClass
  split
  next hb => simp [hb, DLE, ETX]
  next hb => split <;> simp [*]

/-- The mnemonic of the row that a byte of this class selects at a site, read off the table; at the
sites of the last case one byte selects nothing. -/
def Site.rowOf : Site → Machine.ByteClass → String
  | .port, _ => "DISPATCH"
  | .chunkPort, _ => "FEEDCHUNK"
  | .feedPort, _ => "FEED"
  | .stuffPort, _ => "STUFF"
  | .assembler .idle _ _, cls => if cls = .dle then "IDLE.START" else "IDLE.DROP"
  | .assembler .inFrame len odd, cls =>
    if cls = .etx then
      if len < 5 then "FRAME.ETX.SHORT" else if odd then "FRAME.ETX.END" else "FRAME.ETX.DATA"
    else "FRAME.APPEND"
  | .unstuff pend, cls =>
    if cls = .dle then (if pend then "U.DLE2" else "U.DLE1")
    else (if pend then "U.FAIL" else "U.COPY")
  | .stuff, cls => if cls = .dle then "S.DOUBLE" else "S.COPY"
  | _, _ => ""

/-- The row a byte selects is a function of its class, one case per site. -/
theorem mnemonic_of_decodeAt {site : Site} {b : Byte} {i : Instr}
    (h : decodeAt site [b] = .ok i) : i.mnemonic = site.rowOf (Machine.byteClass b) := by
  cases site with
  | port | chunkPort | feedPort | stuffPort =>
    obtain rfl := Except.ok.inj h
    rfl
  | assembler fs len odd =>
    cases fs with
    | idle =>
      obtain rfl := Except.ok.inj ((decodeByte_idle len odd b).symm.trans h)
      simp only [Site.rowOf, byteClass_eq_dle_iff, apply_ite Instr.mnemonic]
      rfl
    | inFrame =>
      obtain rfl := Except.ok.inj ((decodeByte_inFrame len odd b).symm.trans h)
      simp only [Site.rowOf, byteClass_eq_etx_iff, apply_ite Instr.mnemonic]
      rfl
  | unstuff pend =>
    obtain rfl := Except.ok.inj ((decodeByte_unstuff pend b).symm.trans h)
    simp only [Site.rowOf, byteClass_eq_dle_iff, apply_ite Instr.mnemonic]
    rfl
  | stuff =>
    obtain rfl := Except.ok.inj ((decodeByte_stuff b).symm.trans h)
    simp only [Site.rowOf, byteClass_eq_dle_iff, apply_ite Instr.mnemonic]
    rfl
  | guard | decoderPort | decodeId | decodeSlice | scanEnd | verdict | delivery | framePort =>
    exact nomatch h

/-- Settles O11: both rows are the site's row for the common class. -/
theorem selectionDependsOnByteClass : Obligations.SelectionDependsOnByteClass := by
  intro site b c i j hclass hb hc
  rw [mnemonic_of_decodeAt hb, mnemonic_of_decodeAt hc, hclass]

end Sys2Proof
end

section
/-! PROOFS. Selection and execution (spec/30_encoding.md): where an operation's conditions hold, and
that `FEED` and a step run the operation their byte selects. -/

namespace Sys2Proof.Machine

/-! ### The conditions of a row on the state (R47, R48) -/

theorem site_isIdle_iff (s : State) (b : Byte) : (s.site b).isIdle = true ↔ s.fs = .idle := by
  cases h : s.fs <;> simp [State.site, Site.isIdle, h]

theorem site_isInFrame_iff (s : State) (b : Byte) :
    (s.site b).isInFrame = true ↔ s.fs = .inFrame := by
  cases h : s.fs <;> simp [State.site, Site.isInFrame, h]

theorem site_isShort_iff (s : State) (b : Byte) :
    (s.site b).isShort = true ↔ s.fs = .inFrame ∧ s.buf.length + 1 < 5 := by
  cases h : s.fs <;> simp [State.site, Site.isShort, h]

theorem site_isFull_iff (s : State) (b : Byte) (countOdd : Bool) :
    (s.site b).isFull countOdd = true ↔
      s.fs = .inFrame ∧ 5 ≤ s.buf.length + 1 ∧ countParity (s.buf ++ [b]) = countOdd := by
  cases h : s.fs <;> simp [State.site, Site.isFull, minFrame, h]

theorem guardSite_isOverflow (s : State) :
    s.guardSite.isOverflow = overflows s.params s.buf := by
  cases h : s.params.maxFrameLen <;> simp [State.guardSite, Site.isOverflow, overflows, h]

/-- An `ETX` is not counted, so the parity after it is that of the count before it (R55). -/
theorem countParity_append_etx (buf : Bytes) :
    countParity (buf ++ [ETX]) = odd (cnt buf 2 buf.length) :=
  congrArg odd ((congrArg _ List.length_append).trans (cnt_append_etx buf 2))

/-! ### An operation completes exactly where it applies (R47, R48, R102) -/

/-- The outcome is a next state where the condition holds, and a refusal elsewhere. -/
def CompletesExactlyWhen (P : Prop) (o : Host.Outcome State Fault Refusal) : Prop :=
  (P → ∃ t, o = .next t) ∧ (¬P → ∃ r, o = .refused r)

theorem completesExactlyWhen_next {P : Prop} (h : P) (t : State) :
    CompletesExactlyWhen P (.next t) :=
  ⟨fun _ => ⟨t, rfl⟩, fun hn => absurd h hn⟩

theorem completesExactlyWhen_ite {P Q : Prop} [Decidable Q] (h : Q ↔ P) (t : State) (r : Refusal) :
    CompletesExactlyWhen P (if Q then .next t else .refused r) :=
  ⟨fun hp => ⟨t, if_pos (h.mpr hp)⟩, fun hn => ⟨r, if_neg (fun hq => hn (h.mp hq))⟩⟩

theorem completesExactlyWhen_selectedWhen {P : Prop} {holds : Bool} (h : holds = true ↔ P)
    (m : String) (t : State) : CompletesExactlyWhen P (selectedWhen holds m t) :=
  completesExactlyWhen_ite h t _

theorem completesExactlyWhen_onRawFrame (f : Bytes) (t : State) :
    CompletesExactlyWhen (5 ≤ f.length) (onRawFrame f t) :=
  completesExactlyWhen_ite Iff.rfl t _

/-- One case per operation: what its meaning checks is what its rule asks for. -/
theorem exec_completesExactlyWhen_applies (i : Instr) (s : State) :
    CompletesExactlyWhen (s.Applies i) (exec i s) := by
  cases i with
  | feed | dispatch | deliver | feedchunk | sDouble | stuff =>
    exact completesExactlyWhen_next trivial _
  | idleStart => exact completesExactlyWhen_selectedWhen (site_isIdle_iff s DLE) _ _
  | idleDrop b =>
    refine completesExactlyWhen_selectedWhen ?_ _ _
    rw [Bool.and_eq_true, site_isIdle_iff, bne_iff_ne]
    rfl
  | frameEtxShort => exact completesExactlyWhen_selectedWhen (site_isShort_iff s ETX) _ _
  | frameEtxData =>
    refine completesExactlyWhen_selectedWhen ?_ _ _
    rw [site_isFull_iff, countParity_append_etx, odd_false_iff]
    rfl
  | frameEtxEnd =>
    refine completesExactlyWhen_selectedWhen ?_ _ _
    rw [site_isFull_iff, countParity_append_etx, odd_iff]
    rfl
  | frameAppend b =>
    refine completesExactlyWhen_selectedWhen ?_ _ _
    rw [Bool.and_eq_true, site_isInFrame_iff, bne_iff_ne]
    rfl
  | frameOverflow =>
    refine completesExactlyWhen_selectedWhen ?_ _ _
    rw [Bool.and_eq_true, beq_iff_eq, guardSite_isOverflow, overflows_iff]
    rfl
  | decode | decId | decSlice => exact completesExactlyWhen_onRawFrame _ _
  | uDle1 | decValid => exact completesExactlyWhen_selectedWhen (Bool.not_eq_true' _).to_iff _ _
  | uDle2 | decInvalid => exact completesExactlyWhen_selectedWhen Iff.rfl _ _
  | uCopy c =>
    refine completesExactlyWhen_selectedWhen ?_ _ _
    rw [Bool.and_eq_true, bne_iff_ne, Bool.not_eq_true']
    rfl
  | uFail c =>
    refine completesExactlyWhen_selectedWhen ?_ _ _
    rw [Bool.and_eq_true, bne_iff_ne]
    rfl
  | decEndscan =>
    refine completesExactlyWhen_selectedWhen ?_ _ _
    rw [Bool.and_eq_true, Bool.not_eq_true', beq_iff_eq]
    rfl
  | sCopy c => exact completesExactlyWhen_selectedWhen bne_iff_ne _ _
  | frame k p => exact completesExactlyWhen_ite (Q := 1 ≤ p.length) Iff.rfl _ _

/-- Settles O58, from the case per operation. -/
theorem operationsCompleteExactlyWhereTheyApply :
    Obligations.OperationsCompleteExactlyWhereTheyApply :=
  exec_completesExactlyWhen_applies

/-! ### `FEED` runs the operation its byte selects, then the guard (R48, R54) -/

/-- The guard fires after an operation that took the state from `s` to `t`: the byte was taken in a
frame, it did not complete the frame, and the length has reached the bound (R54, R62). -/
def GuardFires (s t : State) : Prop :=
  s.fs = .inFrame ∧ t.feedResult = .none ∧ t.guardSite.isOverflow = true

/-- At the state `s` the byte `b` selects the operation `i`, which gives the state `t`, and `FEED` of
the byte is that operation and then the guard. -/
structure FeedSplits (b : Byte) (s : State) (i : Instr) (t : State) : Prop where
  selects : decodeAt (s.site b) [b] = .ok i
  runs : exec i s = .next t
  not_tooLong : t.feedResult ≠ .tooLong
  guard_applies : GuardFires s t → exec .frameOverflow t = .next (abandonFrame t)
  feed_guarded : GuardFires s t → feedByte b s = abandonFrame t
  feed_unguarded : ¬GuardFires s t → feedByte b s = t

/-- The guard has no part in it where the operation alone is what `FEED` does. -/
theorem FeedSplits.of_not_guardFires {b : Byte} {s : State} {i : Instr} {t : State}
    (hsel : decodeAt (s.site b) [b] = .ok i) (hrun : exec i s = .next t)
    (hresult : t.feedResult ≠ .tooLong) (hguard : ¬GuardFires s t) (hfeed : feedByte b s = t) :
    FeedSplits b s i t :=
  ⟨hsel, hrun, hresult, fun h => absurd h hguard, fun h => absurd h hguard, fun _ => hfeed⟩

theorem decodeAt_site_idle {s : State} (hfs : s.fs = .idle) (b : Byte) :
    decodeAt (s.site b) [b] = .ok (if b = DLE then .idleStart else .idleDrop b) := by
  rw [State.site, hfs]
  exact decodeByte_idle _ _ b

theorem decodeAt_site_inFrame {s : State} (hfs : s.fs = .inFrame) (b : Byte) :
    decodeAt (s.site b) [b] =
      .ok (if b = ETX then
             if s.buf.length + 1 < 5 then .frameEtxShort
             else if countParity (s.buf ++ [b]) then .frameEtxEnd else .frameEtxData
           else .frameAppend b) := by
  rw [State.site, hfs]
  exact decodeByte_inFrame _ _ b

/-- The byte of a start marker in `Idle` (R56). -/
theorem feedSplits_start {s : State} (hfs : s.fs = .idle) :
    FeedSplits DLE s .idleStart (startFrame s) :=
  .of_not_guardFires (decodeAt_site_idle hfs DLE)
    ((selectedWhen_next_iff _ _ _ _).mpr ⟨(site_isIdle_iff s DLE).mpr hfs, rfl⟩)
    nofun (fun ⟨hin, _⟩ => nomatch hfs.symm.trans hin) (feedByte_of_start hfs)

/-- Any other byte in `Idle` (R57). -/
theorem feedSplits_drop {b : Byte} {s : State} (hfs : s.fs = .idle) (hb : b ≠ DLE) :
    FeedSplits b s (.idleDrop b) (s.feedReturn .none) :=
  .of_not_guardFires ((decodeAt_site_idle hfs b).trans (by rw [if_neg hb]))
    ((selectedWhen_next_iff _ _ _ _).mpr
      ⟨Bool.and_eq_true_iff.mpr ⟨(site_isIdle_iff s b).mpr hfs, bne_iff_ne.mpr hb⟩, rfl⟩)
    nofun (fun ⟨hin, _⟩ => nomatch hfs.symm.trans hin) (by simp [feedByte, hfs, hb])

/-- The byte that completes a frame (R61). -/
theorem feedSplits_complete {b : Byte} {s : State} (hfs : s.fs = .inFrame)
    (hc : completes b (s.buf ++ [b]) = true) :
    FeedSplits b s .frameEtxEnd (completeFrame (s.store b)) := by
  obtain ⟨rfl, hlen, hcnt⟩ := (completes_iff _ _).mp hc
  have hodd : countParity (s.buf ++ [ETX]) = true := (odd_iff _).mpr hcnt
  have hlen : 5 ≤ s.buf.length + 1 := by simpa using hlen
  exact .of_not_guardFires
    ((decodeAt_site_inFrame hfs ETX).trans
      (by rw [if_pos rfl, if_neg (Nat.not_lt.mpr hlen), if_pos hodd]))
    ((selectedWhen_next_iff _ _ _ _).mpr ⟨(site_isFull_iff s ETX true).mpr ⟨hfs, hlen, hodd⟩, rfl⟩)
    nofun (fun ⟨_, hresult, _⟩ => nomatch hresult) (feedByte_of_completes hfs hc)

/-- A byte in a frame that does not complete it selects one of the three operations that append it and
stay (R58, R59, R60). -/
theorem exists_appending_operation {b : Byte} {s : State} (hfs : s.fs = .inFrame)
    (hc : completes b (s.buf ++ [b]) = false) :
    ∃ i, decodeAt (s.site b) [b] = .ok i ∧ exec i s = .next (stayInFrame (s.store b)) := by
  refine ⟨_, decodeAt_site_inFrame hfs b, ?_⟩
  by_cases hb : b = ETX
  · subst hb
    rw [if_pos rfl]
    by_cases hlen : s.buf.length + 1 < 5
    · rw [if_pos hlen]
      exact (selectedWhen_next_iff _ _ _ _).mpr ⟨(site_isShort_iff s ETX).mpr ⟨hfs, hlen⟩, rfl⟩
    · have hlen' : 5 ≤ s.buf.length + 1 := Nat.not_lt.mp hlen
      have heven : countParity (s.buf ++ [ETX]) = false := by
        simpa [completes, minFrame, Nat.le_of_succ_le_succ hlen'] using hc
      rw [if_neg hlen, heven]
      exact (selectedWhen_next_iff _ _ _ _).mpr
        ⟨(site_isFull_iff s ETX false).mpr ⟨hfs, hlen', heven⟩, rfl⟩
  · rw [if_neg hb]
    exact (selectedWhen_next_iff _ _ _ _).mpr
      ⟨Bool.and_eq_true_iff.mpr ⟨(site_isInFrame_iff s b).mpr hfs, bne_iff_ne.mpr hb⟩, rfl⟩

theorem feedByte_of_overflows {b : Byte} {s : State} (hfs : s.fs = .inFrame)
    (hc : completes b (s.buf ++ [b]) = false) (ho : overflows s.params (s.buf ++ [b]) = true) :
    feedByte b s = abandonFrame (s.store b) := by
  simp [feedByte, hfs, hc, ho]

theorem execFrameOverflow_of_inFrame {t : State} (hfs : t.fs = .inFrame)
    (ho : t.guardSite.isOverflow = true) : exec .frameOverflow t = .next (abandonFrame t) :=
  (selectedWhen_next_iff _ _ _ _).mpr
    ⟨Bool.and_eq_true_iff.mpr ⟨beq_iff_eq.mpr hfs, ho⟩, rfl⟩

/-- After an operation that appended the byte and stayed, the guard fires exactly on overflow. -/
theorem guardFires_stayInFrame_iff {b : Byte} {s : State} (hfs : s.fs = .inFrame) :
    GuardFires s (stayInFrame (s.store b)) ↔ overflows s.params (s.buf ++ [b]) = true := by
  rw [GuardFires, guardSite_isOverflow]
  exact ⟨fun h => h.2.2, fun h => ⟨hfs, rfl, h⟩⟩

/-- A byte that is appended in a frame and does not complete it: the guard decides (R58 to R60, R62). -/
theorem feedSplits_append {b : Byte} {s : State} {i : Instr} (hfs : s.fs = .inFrame)
    (hc : completes b (s.buf ++ [b]) = false) (hsel : decodeAt (s.site b) [b] = .ok i)
    (hrun : exec i s = .next (stayInFrame (s.store b))) :
    FeedSplits b s i (stayInFrame (s.store b)) where
  selects := hsel
  runs := hrun
  not_tooLong := nofun
  guard_applies := fun ⟨_, _, ho⟩ => execFrameOverflow_of_inFrame hfs ho
  feed_guarded h := feedByte_of_overflows hfs hc ((guardFires_stayInFrame_iff hfs).mp h)
  feed_unguarded h := feedByte_of_stays hfs hc
    (Bool.eq_false_iff.mpr fun ho => h ((guardFires_stayInFrame_iff hfs).mpr ho))

/-- In every state every byte selects an operation that `FEED` consists of, along the cases of R54. -/
theorem exists_feedSplits (b : Byte) (s : State) : ∃ i t, FeedSplits b s i t := by
  cases hfs : s.fs with
  | idle =>
    by_cases hb : b = DLE
    · subst hb
      exact ⟨_, _, feedSplits_start hfs⟩
    · exact ⟨_, _, feedSplits_drop hfs hb⟩
  | inFrame =>
    cases hc : completes b (s.buf ++ [b]) with
    | true => exact ⟨_, _, feedSplits_complete hfs hc⟩
    | false =>
      obtain ⟨i, hsel, hrun⟩ := exists_appending_operation hfs hc
      exact ⟨i, _, feedSplits_append hfs hc hsel hrun⟩

/-- Settles O9: the split of `FEED`, with the guard or without it. -/
theorem feedRunsSelectedOperation : Obligations.FeedRunsSelectedOperation := by
  intro s b
  obtain ⟨i, t, h⟩ := exists_feedSplits b s
  refine ⟨i, t, feedByte b s, h.selects, h.runs, rfl, ?_⟩
  split
  next hguard => exact (congrArg _ (h.feed_guarded hguard)).trans (h.guard_applies hguard).symm
  next hguard => exact congrArg _ (h.feed_unguarded hguard)

/-! ### A step is that, inside `DISPATCH` (R81) -/

theorem dispatchByte_of_feedResult_tooLong {b : Byte} {s : State}
    (h : (feedByte b s).feedResult = .tooLong) :
    dispatchByte b s = (((feedByte b s).hand .tooLong).emit .tooLong).endStep := by
  simp only [dispatchByte, h]

theorem dispatchByte_of_feedResult_frame {b : Byte} {s : State} {f : Bytes}
    (h : (feedByte b s).feedResult = .frame f) :
    dispatchByte b s =
      (((feedByte b s).hand (.packet (decodePacket (feedByte b s).params.endFlagCheck f))).emit
        (.packet (decodePacket (feedByte b s).params.endFlagCheck f))).endStep := by
  simp only [dispatchByte, h]
  rfl

theorem execDecode_of_length {f : Bytes} (h : 5 ≤ f.length) (s : State) :
    exec (.decode f) s = .next (decodeFrame f s) :=
  (onRawFrame_next_iff _ _ _).mpr ⟨h, rfl⟩

/-- Settles O34: the split of `FEED` on the state with the byte accepted, and the three ways `DISPATCH`
goes on from it. -/
theorem stepRunsDecodedOperation : Obligations.StepRunsDecodedOperation := by
  intro s b rest hinput
  obtain ⟨i, t, h⟩ := exists_feedSplits b { s with input := rest }
  have hstep : step s = .next (dispatchByte b { s with input := rest }) :=
    step_of_input_cons hinput
  obtain ⟨hwf, -, -⟩ := fits_of_decodeAt h.selects
  refine ⟨i, t, h.selects, hwf, h.runs, fun hnone hguard => ?_, fun hnone hfs hover => ?_,
    fun f hframe => ?_, h.not_tooLong⟩
  · have hfeed := h.feed_unguarded fun ⟨hfs, _, hover⟩ => hguard ⟨hfs, hover⟩
    rw [hstep, dispatchByte_of_feedResult_none (by rw [hfeed, hnone]), hfeed]
    rfl
  · have hfeed := h.feed_guarded ⟨hfs, hnone, hover⟩
    rw [hstep, dispatchByte_of_feedResult_tooLong (by rw [hfeed]; rfl), hfeed]
    rfl
  · have hfeed := h.feed_unguarded fun ⟨_, hnone, _⟩ => nomatch hframe.symm.trans hnone
    have hresult : (feedByte b { s with input := rest }).feedResult = .frame f := by
      rw [hfeed, hframe]
    obtain ⟨-, hcompletes, rfl⟩ := completes_of_feedResult_frame hresult
    obtain ⟨-, hlen, -⟩ := (completes_iff _ _).mp hcompletes
    refine ⟨_, _, execDecode_of_length hlen t, rfl, ?_⟩
    rw [hstep, dispatchByte_of_feedResult_frame hresult, hfeed]
    rfl

end Sys2Proof.Machine
end

section
/-! PROOFS. The FrameAssembler's operations (spec/40_frame_assembler.md): which one a byte selects in
each state, what it makes of the state, and when the length guard comes after it. -/

namespace Sys2Proof.Machine

/-! ### The conditions of the table after the append of a byte (R24, R54) -/

theorem countParity_append_eq_odd (buf : Bytes) (b : Byte) :
    countParity (buf ++ [b]) = odd (cnt (buf ++ [b]) 2 (buf.length + 1)) := by
  simp [countParity, countFrom]

/-- The parity toggles exactly for a `DLE` at index 2 or later (R24, R58). -/
theorem countParity_append_ne_iff (buf : Bytes) (b : Byte) :
    countParity (buf ++ [b]) ≠ countParity buf ↔ b = DLE ∧ 2 ≤ buf.length := by
  have hxor (x y : Bool) : ((x != y) ≠ x ↔ y = true) := by cases x <;> simp
  rw [countParity_append_one, hxor, Bool.and_eq_true, beq_iff_eq, decide_eq_true_eq]

/-- The completion test on the byte appended, in the words of R54. -/
theorem completes_append_iff (b : Byte) (buf : Bytes) :
    completes b (buf ++ [b]) = true ↔
      b = ETX ∧ 5 ≤ buf.length + 1 ∧ cnt (buf ++ [b]) 2 (buf.length + 1) % 2 = 1 := by
  rw [completes_iff, List.length_append, List.length_singleton]

/-! ### A row that applies is selected and answers its effect (R48) -/

/-- Settles O1: `Idle` and a start marker. -/
theorem idleStartOpensFrame : Obligations.IdleStartOpensFrame :=
  fun _ hfs => ⟨(feedSplits_start hfs).selects, (feedSplits_start hfs).runs⟩

/-- Settles O2: `Idle` and any other byte. -/
theorem idleDropDiscardsByte : Obligations.IdleDropDiscardsByte :=
  fun _ _ hfs hb => ⟨(feedSplits_drop hfs hb).selects, (feedSplits_drop hfs hb).runs⟩

/-- Settles O3: the row asks for a frame and a byte that is no `ETX`. -/
theorem frameAppendExtendsBuffer : Obligations.FrameAppendExtendsBuffer := by
  intro s b hfs hb
  have hsel : (s.site b).isInFrame = true := (site_isInFrame_iff s b).mpr hfs
  have hwf : (b != ETX) = true := bne_iff_ne.mpr hb
  exact ⟨decodeAt_encode (i := .frameAppend b) hwf hsel,
    (selectedWhen_next_iff _ _ _ _).mpr ⟨Bool.and_eq_true_iff.mpr ⟨hsel, hwf⟩, rfl⟩,
    countParity_append_ne_iff s.buf b⟩

/-- Settles O4: the row asks for a frame that the byte leaves below five bytes. -/
theorem etxShortAppends : Obligations.EtxShortAppends := by
  intro s hfs hlen
  have hsel : (s.site ETX).isShort = true := (site_isShort_iff s ETX).mpr ⟨hfs, hlen⟩
  exact ⟨decodeAt_encode (i := .frameEtxShort) rfl hsel,
    (selectedWhen_next_iff _ _ _ _).mpr ⟨hsel, rfl⟩⟩

/-- Settles O5: the row asks for a frame of at least five bytes with an even count. -/
theorem etxDataAppends : Obligations.EtxDataAppends := by
  intro s hfs hlen hcnt
  have heven : countParity (s.buf ++ [ETX]) = false :=
    (countParity_append_eq_odd s.buf ETX).trans ((odd_false_iff _).mpr hcnt)
  have hsel : (s.site ETX).isFull false = true :=
    (site_isFull_iff s ETX false).mpr ⟨hfs, hlen, heven⟩
  exact ⟨decodeAt_encode (i := .frameEtxData) rfl hsel,
    (selectedWhen_next_iff _ _ _ _).mpr ⟨hsel, rfl⟩⟩

/-- Settles O6: the conditions of the row are the completion test, which `FEED` makes before it looks
at the bound. -/
theorem etxEndCompletesFrame : Obligations.EtxEndCompletesFrame := by
  intro s hfs hlen hcnt
  have hc : completes ETX (s.buf ++ [ETX]) = true :=
    (completes_append_iff ETX s.buf).mpr ⟨rfl, hlen, hcnt⟩
  exact ⟨(feedSplits_complete hfs hc).selects, (feedSplits_complete hfs hc).runs,
    congrArg _ (feedByte_of_completes hfs hc)⟩

/-! ### The length guard (R62, R104) -/

theorem overflows_of_unbounded {p : Params} (h : p.maxFrameLen = none) (buf : Bytes) :
    overflows p buf = false := by
  simp [overflows, h]

/-- Settles O7: the guard's row asks for a bound that the length has reached. -/
theorem overflowAbandonsFrame : Obligations.OverflowAbandonsFrame := by
  intro s hfs
  refine ⟨fun hnone => ?_, fun n hn hle => ?_⟩
  · have hnot : s.guardSite.isOverflow = false :=
      (guardSite_isOverflow s).trans (overflows_of_unbounded hnone _)
    have hcond : (s.fs == .inFrame && s.guardSite.isOverflow) = false := by
      rw [hnot, Bool.and_false]
    exact congrArg (selectedWhen · _ _) hcond
  · have hover : s.guardSite.isOverflow = true :=
      (guardSite_isOverflow s).trans ((overflows_iff _ _).mpr ⟨n, hn, hle⟩)
    exact ⟨decodeAt_encode (i := .frameOverflow) rfl hover, execFrameOverflow_of_inFrame hfs hover⟩

/-- `FEED` answers `TooLong` exactly where the byte does not complete the frame and the guard fires;
the frame is then abandoned (R54). -/
theorem feedResult_tooLong_iff {s : State} (hfs : s.fs = .inFrame) (b : Byte) :
    (feedByte b s).feedResult = .tooLong ↔
      overflows s.params (s.buf ++ [b]) = true ∧ ¬completes b (s.buf ++ [b]) = true := by
  cases hc : completes b (s.buf ++ [b]) with
  | true => simp [feedByte_of_completes hfs hc, completeFrame]
  | false =>
    cases ho : overflows s.params (s.buf ++ [b]) with
    | true => simp [feedByte_of_overflows hfs hc ho, abandonFrame]
    | false => simp [feedByte_of_stays hfs hc ho, stayInFrame]

/-- INV4 holds before the append, so the byte that reaches the bound brings the length exactly to
it. -/
theorem overflows_append_iff_of_inv {s : State} (hinv : s.Inv) {n : Nat}
    (hn : s.params.maxFrameLen = some n) (b : Byte) :
    overflows s.params (s.buf ++ [b]) = true ↔ s.buf.length + 1 = n := by
  have hlt := hinv.below_bound n hn
  rw [overflows_iff, List.length_append, List.length_singleton, hn]
  constructor
  · rintro ⟨m, hm, hle⟩
    obtain rfl := Option.some.inj hm
    omega
  · rintro rfl
    exact ⟨_, rfl, Nat.le_refl _⟩

/-- Settles O8: the completion test and the guard, each in the words of its rule. -/
theorem guardFiresAfterCompletionTest : Obligations.GuardFiresAfterCompletionTest := by
  intro s b n hinv hfs hn
  have hfires := feedResult_tooLong_iff hfs b
  refine ⟨feedByte b s, rfl, ?_, fun htoo => ?_, fun hb hlen hcnt => ?_⟩
  · rw [hfires, overflows_append_iff_of_inv hinv hn, completes_append_iff]
    rfl
  · obtain ⟨ho, hc⟩ := hfires.mp htoo
    exact feedByte_of_overflows hfs (Bool.eq_false_iff.mpr hc) ho
  · exact feedByte_of_completes hfs ((completes_append_iff b s.buf).mpr ⟨hb, hlen, hcnt⟩)

end Sys2Proof.Machine
end

section
/-! PROOFS. The invariants of the framing state (spec/10_state.md section 7) and what follows from
them for a RawFrame and for a step that emits an event. -/

namespace Sys2Proof.Machine

/-! ### The invariants INV1 to INV4 (R25) -/

/-- A bound is at least five (R6). -/
theorem five_le_of_params_wf {p : Params} (h : p.wf = true) {n : Nat}
    (hn : p.maxFrameLen = some n) : 5 ≤ n := by
  simpa [Params.wf, hn, minFrame] using h

/-- The invariants speak of the parameters, the framing state and the buffer only. -/
theorem State.Inv.of_same_framing {s t : State} (h : s.Inv) (hparams : t.params = s.params)
    (hfs : t.fs = s.fs) (hbuf : t.buf = s.buf) : t.Inv where
  params_wf := hparams ▸ h.params_wf
  idle_iff_empty := by rw [hfs, hbuf]; exact h.idle_iff_empty
  starts_with_dle := by rw [hfs, hbuf]; exact h.starts_with_dle
  no_missed_end := by rw [hfs, hbuf]; exact h.no_missed_end
  below_bound := by rw [hparams, hbuf]; exact h.below_bound

/-- In `(Idle, [])` the invariants ask only that the bound be well formed. -/
theorem State.Inv.of_idle {s : State} (hwf : s.params.wf = true) (hfs : s.fs = .idle)
    (hbuf : s.buf = []) : s.Inv where
  params_wf := hwf
  idle_iff_empty := by simp [hfs, hbuf]
  starts_with_dle hin := nomatch hfs.symm.trans hin
  no_missed_end hin := nomatch hfs.symm.trans hin
  below_bound n hn := by
    have hfive := five_le_of_params_wf hwf hn
    simp only [hbuf, List.length_nil]
    omega

@[simp] theorem startFrame_fs (s : State) : (startFrame s).fs = .inFrame := rfl
@[simp] theorem startFrame_buf (s : State) : (startFrame s).buf = [DLE] := rfl

/-- `IDLE.START` keeps the invariants: one byte is below every bound, and no byte is at index 4. -/
theorem startFrame_inv {s : State} (hinv : s.Inv) : (startFrame s).Inv where
  params_wf := hinv.params_wf
  idle_iff_empty := by simp
  starts_with_dle _ := rfl
  no_missed_end _ j hj hetx := by
    have hlt := (List.getElem?_eq_some_iff.mp hetx).1
    simp only [startFrame_buf, List.length_singleton] at hlt
    omega
  below_bound n hn := by
    have hfive := five_le_of_params_wf hinv.params_wf hn
    simp only [startFrame_buf, List.length_singleton]
    omega

/-! What INV2 and INV3 say of the buffer stays true of it with a byte appended. -/

theorem State.Inv.first_of_append {s : State} (hinv : s.Inv) (hfs : s.fs = .inFrame) (b : Byte) :
    (s.buf ++ [b])[0]? = some DLE := by
  have hfirst := hinv.starts_with_dle hfs
  have hlen : 0 < s.buf.length := (List.getElem?_eq_some_iff.mp hfirst).1
  exact (List.getElem?_append_left hlen).trans hfirst

theorem State.Inv.no_missed_end_of_append {s : State} (hinv : s.Inv) (hfs : s.fs = .inFrame)
    {b : Byte} {j : Nat} (hj : 4 ≤ j) (hold : j < s.buf.length)
    (hetx : (s.buf ++ [b])[j]? = some ETX) : cnt (s.buf ++ [b]) 2 (j + 1) % 2 = 0 := by
  rw [cnt_append_of_le _ _ _ _ hold]
  exact hinv.no_missed_end hfs j hj ((List.getElem?_append_left hold).symm.trans hetx)

/-- An append that neither completes the frame nor reaches the bound keeps the invariants: INV3 asks
something new of the last byte only, and there it is that the completion test has failed. -/
theorem stayInFrame_store_inv {b : Byte} {s : State} (hinv : s.Inv) (hfs : s.fs = .inFrame)
    (hc : completes b (s.buf ++ [b]) = false) (ho : overflows s.params (s.buf ++ [b]) = false) :
    (stayInFrame (s.store b)).Inv where
  params_wf := hinv.params_wf
  idle_iff_empty := by simp [stayInFrame, hfs]
  starts_with_dle _ := hinv.first_of_append hfs b
  no_missed_end _ j hj hetx := by
    rw [stayInFrame_buf, State.store_buf] at hetx ⊢
    rcases Nat.lt_or_ge j s.buf.length with hold | hnew
    · exact hinv.no_missed_end_of_append hfs hj hold hetx
    · obtain rfl : j = s.buf.length := by
        have hlt := (List.getElem?_eq_some_iff.mp hetx).1
        simp only [List.length_append, List.length_singleton] at hlt
        omega
      obtain rfl : b = ETX := by simpa using hetx
      refine Nat.mod_two_ne_one.mp fun hodd => ?_
      exact Bool.eq_false_iff.mp hc
        ((completes_append_iff ETX s.buf).mpr ⟨rfl, Nat.succ_le_succ hj, hodd⟩)
  below_bound n hn := by
    refine Nat.lt_of_not_le fun hle => ?_
    exact Bool.eq_false_iff.mp ho ((overflows_iff _ _).mpr ⟨n, hn, hle⟩)

/-- `FEED` keeps the invariants, along the cases of R54. -/
theorem feedByte_inv (b : Byte) {s : State} (hinv : s.Inv) : (feedByte b s).Inv := by
  rcases feedByte_cases b s with ⟨-, -, h⟩ | ⟨-, -, h⟩ | ⟨-, -, h⟩ | ⟨-, -, -, h⟩ |
      ⟨hfs, hc, ho, h⟩ <;> rw [h]
  · exact startFrame_inv hinv
  · exact hinv.of_same_framing rfl rfl rfl
  · exact .of_idle hinv.params_wf rfl rfl
  · exact .of_idle hinv.params_wf rfl rfl
  · exact stayInFrame_store_inv hinv hfs hc ho

/-- What `DISPATCH` does after `FEED` leaves the parameters and the framing state alone (R78, R87). -/
theorem dispatchByte_framing (b : Byte) (s : State) :
    (dispatchByte b s).params = (feedByte b s).params ∧
    (dispatchByte b s).fs = (feedByte b s).fs ∧ (dispatchByte b s).buf = (feedByte b s).buf := by
  rcases dispatchByte_cases b s with ⟨-, h⟩ | ⟨f, -, h⟩ | ⟨-, h⟩ <;> rw [h] <;>
    exact ⟨rfl, rfl, rfl⟩

theorem dispatchByte_inv (b : Byte) {s : State} (hinv : s.Inv) : (dispatchByte b s).Inv := by
  obtain ⟨hparams, hfs, hbuf⟩ := dispatchByte_framing b s
  exact (feedByte_inv b hinv).of_same_framing hparams hfs hbuf

/-- Settles O54: neither accepting a byte nor holding touches the framing state, and `DISPATCH` keeps
the invariants because `FEED` does. -/
theorem stepKeepsFramingInvariant : Obligations.StepKeepsFramingInvariant := by
  intro s t hinv hstep
  rcases step_cases s t hstep with ⟨-, rfl⟩ | ⟨b, rest, -, rfl⟩
  · exact hinv.of_same_framing rfl rfl rfl
  · exact dispatchByte_inv b (hinv.of_same_framing rfl rfl rfl)

/-! ### The RawFrame that `FEED` returns (R65) -/

/-- From a state with the invariants, the buffer with the completing `ETX` appended has the shape of
R65. -/
theorem rawFrameShape_of_completes {s : State} (hinv : s.Inv) (hfs : s.fs = .inFrame)
    (hc : completes ETX (s.buf ++ [ETX]) = true) :
    RawFrameShape s.params.maxFrameLen (s.buf ++ [ETX]) where
  long_enough := ((completes_iff _ _).mp hc).2.1
  first_dle := hinv.first_of_append hfs ETX
  last_etx := by simp [ETX]
  odd_count := ((completes_iff _ _).mp hc).2.2
  no_earlier_end _ hj hlt hetx :=
    hinv.no_missed_end_of_append hfs hj (by simpa using hlt) hetx
  within_bound n hn := by simpa using hinv.below_bound n hn

/-- Settles O14: `FEED` returns a RawFrame only by completing the frame. -/
theorem feedReturnsRawFrameShape : Obligations.FeedReturnsRawFrameShape := by
  intro s t b f hinv hfeed hframe
  obtain rfl := Host.Outcome.next.inj hfeed
  obtain ⟨hfs, hc, rfl⟩ := completes_of_feedResult_frame hframe
  obtain ⟨rfl, -⟩ := (completes_iff _ _).mp hc
  exact rawFrameShape_of_completes hinv hfs hc

/-! ### A step that emits an event (R105) -/

/-- Whatever ends a frame also clears the buffer and returns to `Idle` (R61, R62). -/
theorem feedByte_idle_of_feedResult {b : Byte} {s : State}
    (h : (feedByte b s).feedResult ≠ .none) :
    (feedByte b s).fs = .idle ∧ (feedByte b s).buf = [] := by
  rcases feedByte_cases b s with ⟨-, -, e⟩ | ⟨-, -, e⟩ | ⟨-, -, e⟩ | ⟨-, -, -, e⟩ |
      ⟨-, -, -, e⟩ <;>
    rw [e] at h ⊢
  · exact absurd rfl h
  · exact absurd rfl h
  · exact ⟨rfl, rfl⟩
  · exact ⟨rfl, rfl⟩
  · exact absurd rfl h

theorem dispatchByte_event_of_feedResult_none {b : Byte} {s : State}
    (h : (feedByte b s).feedResult = .none) : (dispatchByte b s).event = .none := by
  rw [dispatchByte_of_feedResult_none h]
  rfl

/-- Settles O37: an event comes from a result of `FEED`, and that leaves `(Idle, [])`. -/
theorem eventLeavesResetFraming : Obligations.EventLeavesResetFraming := by
  intro s t hstep hevent
  rcases step_cases s t hstep with ⟨-, rfl⟩ | ⟨b, rest, -, rfl⟩
  · exact absurd rfl hevent
  · obtain ⟨-, hfs, hbuf⟩ := dispatchByte_framing b { s with input := rest }
    obtain ⟨hidle, hempty⟩ := feedByte_idle_of_feedResult fun hnone =>
      hevent (dispatchByte_event_of_feedResult_none hnone)
    obtain ⟨hresult, hdec⟩ := dispatchByte_quiet b { s with input := rest }
    exact ⟨hfs.trans hidle, hbuf.trans hempty, hresult, hdec⟩

end Sys2Proof.Machine
end

section
/-! PROOFS. Streams of bytes through the FrameAssembler (spec/40_frame_assembler.md, R83 to R85 of
spec/42_dispatcher.md): what a chunk gives in `Idle`, in a frame without an end, and over many
frames. -/

namespace Sys2Proof.Machine

/-! ### Bytes outside a frame (R57, R100) -/

theorem feedByte_of_drop {b : Byte} {s : State} (hfs : s.fs = .idle) (hb : b ≠ DLE) :
    feedByte b s = s.feedReturn .none := by
  simp [feedByte, hfs, hb]

theorem dispatchByte_drop {b : Byte} {s : State} (hfs : s.fs = .idle) (hb : b ≠ DLE) :
    dispatchByte b s =
      { s with event := .none, feedResult := .none, dec := DecScratch.initial } := by
  have hfeed := feedByte_of_drop hfs hb
  rw [dispatchByte_of_feedResult_none (by rw [hfeed]; rfl), hfeed]
  rfl

/-- Settles O36: the byte accepted is dispatched, and dropped. -/
theorem spuriousByteIsSilent : Obligations.SpuriousByteIsSilent := by
  intro s b rest hfs hinput hb
  rw [step_of_input_cons hinput]
  exact congrArg _ (dispatchByte_drop (s := { s with input := rest }) hfs hb)

/-! ### A stream of frames and gaps (R95) -/

/-- The block has come from `s` to `t`, which is `(Idle, [])` under the same parameters, and has given
exactly these events on the way. -/
structure State.IdleAfter (s t : State) (events : List OutEvent) : Prop where
  params : t.params = s.params
  fs : t.fs = .idle
  buf : t.buf = []
  trace : t.trace = s.trace ++ events

theorem State.IdleAfter.of_idle {s : State} (hfs : s.fs = .idle) (hbuf : s.buf = []) :
    s.IdleAfter s [] :=
  ⟨rfl, hfs, hbuf, (List.append_nil _).symm⟩

theorem State.IdleAfter.trans {s t u : State} {xs ys : List OutEvent} (h : s.IdleAfter t xs)
    (h' : t.IdleAfter u ys) : s.IdleAfter u (xs ++ ys) where
  params := h'.params.trans h.params
  fs := h'.fs
  buf := h'.buf
  trace := by rw [h'.trace, h.trace, List.append_assoc]

/-- A gap without a start marker gives no event. -/
theorem dispatchChunk_gap {gap : Bytes} {s : State} (hfs : s.fs = .idle) (hbuf : s.buf = [])
    (hgap : DLE ∉ gap) : s.IdleAfter (dispatchChunk gap s) [] := by
  induction gap generalizing s with
  | nil => exact .of_idle hfs hbuf
  | cons b gap ih =>
    obtain ⟨hb, hrest⟩ : DLE ≠ b ∧ DLE ∉ gap := by simpa using hgap
    have hfirst : s.IdleAfter (dispatchByte b s) [] := by
      rw [dispatchByte_drop hfs hb.symm]
      exact ⟨rfl, hfs, hbuf, (List.append_nil _).symm⟩
    exact hfirst.trans (ih hfirst.fs hfirst.buf hrest)

/-- A gap and then a frame within the bound give the frame's Packet. -/
theorem dispatchChunk_streamPart {q : StreamPart} {s : State} (hfs : s.fs = .idle)
    (hbuf : s.buf = []) (hq : q.Fits s.params.maxFrameLen) :
    s.IdleAfter (dispatchChunk q.bytes s) [q.event] := by
  obtain ⟨hgap, hpayload, hbound⟩ := hq
  have hidle := dispatchChunk_gap hfs hbuf hgap
  have hbelow : (dispatchChunk q.gap s).Below (frameFront q.id q.payload).length :=
    below_frameFront fun n hn => hbound n (by rw [← hidle.params, hn])
  rw [StreamPart.bytes, dispatchChunk_append]
  refine hidle.trans (ys := [q.event]) ?_
  rw [dispatchChunk_frameBytes hidle.fs hpayload hbelow]
  exact ⟨rfl, rfl, rfl, rfl⟩

/-- Frames with gaps before them give their Packets, in order, by induction over the pieces. -/
theorem dispatchChunk_streamParts {parts : List StreamPart} {s : State} (hfs : s.fs = .idle)
    (hbuf : s.buf = []) (hparts : ∀ q ∈ parts, q.Fits s.params.maxFrameLen) :
    s.IdleAfter (dispatchChunk (parts.flatMap StreamPart.bytes) s)
      (parts.map StreamPart.event) := by
  induction parts generalizing s with
  | nil => exact .of_idle hfs hbuf
  | cons q parts ih =>
    obtain ⟨hq, hrest⟩ := List.forall_mem_cons.mp hparts
    have hfirst := dispatchChunk_streamPart hfs hbuf hq
    rw [List.flatMap_cons, dispatchChunk_append, List.map_cons]
    exact hfirst.trans (ih hfirst.fs hfirst.buf (by rwa [hfirst.params]))

/-- Settles O48: the pieces, and then a gap at the end. -/
theorem streamGivesItsPacketsInOrder : Obligations.StreamGivesItsPacketsInOrder := by
  intro parts last s hfs hbuf hparts hlast
  have hstream := dispatchChunk_streamParts hfs hbuf hparts
  have hall := hstream.trans (dispatchChunk_gap hstream.fs hstream.buf hlast)
  rw [← dispatchChunk_append, List.append_nil] at hall
  exact ⟨_, rfl, hall.fs, hall.buf, hall.trace⟩

/-! ### Bytes that never end the frame (R58, R99, R116) -/

theorem dispatchByte_of_stays {b : Byte} {s : State} (hfs : s.fs = .inFrame)
    (hc : completes b (s.buf ++ [b]) = false) (ho : overflows s.params (s.buf ++ [b]) = false) :
    dispatchByte b s = s.midFrame (s.buf ++ [b]) := by
  have hfeed := feedByte_of_stays hfs hc ho
  rw [dispatchByte_of_feedResult_none (by rw [hfeed]; rfl), hfeed]
  simp only [State.midFrame, ← hfs]
  rfl

/-- The block has come from `s` to `t` inside one frame, whose buffer has grown by these bytes, and has
produced nothing on the way. -/
structure State.GrownBy (s t : State) (bs : Bytes) : Prop where
  params : t.params = s.params
  fs : t.fs = .inFrame
  buf : t.buf = s.buf ++ bs
  trace : t.trace = s.trace
  inboxes : t.inboxes = s.inboxes

theorem State.GrownBy.refl {s : State} (hfs : s.fs = .inFrame) : s.GrownBy s [] :=
  ⟨rfl, hfs, (List.append_nil _).symm, rfl, rfl⟩

theorem State.GrownBy.trans {s t u : State} {xs ys : Bytes} (h : s.GrownBy t xs)
    (h' : t.GrownBy u ys) : s.GrownBy u (xs ++ ys) where
  params := h'.params.trans h.params
  fs := h'.fs
  buf := by rw [h'.buf, h.buf, List.append_assoc]
  trace := h'.trace.trans h.trace
  inboxes := h'.inboxes.trans h.inboxes

/-- Without a bound, a byte that does not complete the frame makes it grow. -/
theorem dispatchByte_grownBy {b : Byte} {s : State} (hfs : s.fs = .inFrame)
    (hbound : s.params.maxFrameLen = none) (hc : completes b (s.buf ++ [b]) = false) :
    s.GrownBy (dispatchByte b s) [b] := by
  rw [dispatchByte_of_stays hfs hc (overflows_of_unbounded hbound _)]
  exact ⟨rfl, rfl, rfl, rfl, rfl⟩

/-- Without a bound, bytes that are no `ETX` make the frame grow, by induction over the bytes. -/
theorem dispatchChunk_grownBy {bs : Bytes} {s : State} (hfs : s.fs = .inFrame)
    (hbound : s.params.maxFrameLen = none) (hbs : ETX ∉ bs) :
    s.GrownBy (dispatchChunk bs s) bs := by
  induction bs generalizing s with
  | nil => exact .refl hfs
  | cons b bs ih =>
    obtain ⟨hb, hrest⟩ : ETX ≠ b ∧ ETX ∉ bs := by simpa using hbs
    have hfirst := dispatchByte_grownBy hfs hbound (completes_of_ne_etx hb.symm)
    exact hfirst.trans (ih hfirst.fs (hfirst.params ▸ hbound) hrest)

/-- Settles O15: the buffer grows by the chunk. -/
theorem unterminatedFrameGrows : Obligations.UnterminatedFrameGrows := by
  intro bs s hfs hbound hbs
  have hgrown := dispatchChunk_grownBy hfs hbound hbs
  exact ⟨_, rfl, hgrown.fs, hgrown.buf, hgrown.trace, hgrown.inboxes⟩

/-! ### The parity lock (R117) -/

theorem odd_add (m n : Nat) : odd (m + n) = (odd m != odd n) := by
  rcases Nat.mod_two_eq_zero_or_one m with hm | hm <;>
    rcases Nat.mod_two_eq_zero_or_one n with hn | hn <;> simp [odd, Nat.add_mod, hm, hn]

/-- Appending to a buffer of at least two bytes, every new byte is in the range of the count. -/
theorem countParity_append {buf : Bytes} (h : 2 ≤ buf.length) (bs : Bytes) :
    countParity (buf ++ bs) = (countParity buf != odd (bs.count DLE)) := by
  rw [countParity_eq, countParity_eq, List.drop_append_of_le_length h, List.count_append]
  exact odd_add _ _

/-- Each `DLE` of a payload is sent twice (R91, R92). -/
theorem count_dle_stuffBytes (p : Bytes) : (stuffBytes p).count DLE = 2 * p.count DLE := by
  induction p with
  | nil => rfl
  | cons c p ih =>
    rw [stuffBytes, List.count_append, ih, stuffByte]
    by_cases hc : c = DLE
    · subst hc
      simp [Nat.mul_add, Nat.add_comm]
    · simp [hc]

/-- The stuffing makes no `ETX` (R44, R92). -/
theorem etx_not_mem_stuffBytes {p : Bytes} (h : ETX ∉ p) : ETX ∉ stuffBytes p := by
  induction p with
  | nil => exact h
  | cons c p ih =>
    obtain ⟨hc, hp⟩ : ETX ≠ c ∧ ETX ∉ p := by simpa using h
    rw [stuffBytes, List.mem_append, stuffByte]
    rintro (hmem | hmem)
    · split at hmem
      · simp [ETX, DLE] at hmem
      · exact hc (List.mem_singleton.mp hmem)
    · exact ih hp hmem

theorem etx_not_mem_frameFront {i : Byte} {p : Bytes} (hi : i ≠ ETX) (hp : ETX ∉ p) :
    ETX ∉ frameFront i p := by
  have hdle : ETX ≠ DLE := by decide
  simp [frameFront, hdle, hi.symm, etx_not_mem_stuffBytes hp]

/-- The two markers and the doubled bytes: a frame whose id is no `DLE` holds an even number of
them. -/
theorem odd_count_dle_frameFront {i : Byte} (hi : i ≠ DLE) (p : Bytes) :
    odd ((frameFront i p).count DLE) = false := by
  have hcount : (frameFront i p).count DLE = 2 * (p.count DLE + 1) := by
    simp [frameFront, count_dle_stuffBytes, hi, Nat.mul_add]
  rw [hcount, odd_false_iff, Nat.mul_mod_right]

/-- Settles O16: up to its trailer's `DLE` the frame holds no `ETX`, and there the count is even again,
so the trailer's `ETX` does not complete the frame. -/
theorem parityLockSwallowsFrame : Obligations.ParityLockSwallowsFrame := by
  intro s i p hfs h2 heven hbound hidle hietx hp hlen
  have hfront := dispatchChunk_grownBy hfs hbound (etx_not_mem_frameFront hietx hp)
  have heven' : countParity (s.buf ++ frameFront i p) = false := by
    rw [countParity_append h2, heven, odd_count_dle_frameFront hidle]
    rfl
  have hlast := dispatchByte_grownBy hfront.fs (hfront.params ▸ hbound)
    (completes_of_even (b := ETX) (hfront.buf ▸ heven'))
  have hwhole := hfront.trans hlast
  have hparity : countParity (s.buf ++ frameBytes i p) = false := by
    rw [frameBytes_eq_front, ← List.append_assoc, countParity_append_one, heven']
    simp [ETX, DLE]
  rw [← frameBytes_eq_front] at hwhole
  have hrun : exec (.feedchunk (frameBytes i p)) s =
      .next (dispatchByte ETX (dispatchChunk (frameFront i p) s)) := by
    rw [frameBytes_eq_front]
    exact congrArg _ (dispatchChunk_append _ _ _)
  exact ⟨_, _, (execFrame_next_iff i p s _).mpr ⟨hlen, rfl⟩, hrun, hwhole.fs, hwhole.buf,
    hwhole.buf ▸ hparity, hwhole.trace⟩

/-! ### At most one Packet for every five bytes (R84) -/

theorem packetCount_append (xs ys : List OutEvent) :
    packetCount (xs ++ ys) = packetCount xs + packetCount ys := by
  induction xs with
  | nil => simp [packetCount]
  | cons e xs ih =>
    cases e with
    | packet p =>
      simp only [List.cons_append, packetCount, ih]
      omega
    | none | tooLong => exact ih

/-- A byte adds at most itself to the buffer. -/
theorem feedByte_buf_length_le (b : Byte) (s : State) :
    (feedByte b s).buf.length ≤ s.buf.length + 1 := by
  rcases feedByte_cases b s with ⟨-, -, h⟩ | ⟨-, -, h⟩ | ⟨-, -, h⟩ | ⟨-, -, -, h⟩ |
      ⟨-, -, -, h⟩ <;>
    simp [h, completeFrame, abandonFrame]

theorem dispatchByte_buf_length_le (b : Byte) (s : State) :
    (dispatchByte b s).buf.length ≤ s.buf.length + 1 := by
  obtain ⟨-, -, hbuf⟩ := dispatchByte_framing b s
  rw [hbuf]
  exact feedByte_buf_length_le b s

/-- A Packet takes at least five bytes out of the buffer, the byte of its step among them (R61). -/
theorem five_le_of_dispatchByte_packet {b : Byte} {s : State} {pkt : Packet}
    (h : (dispatchByte b s).event = .packet pkt) :
    5 ≤ s.buf.length + 1 ∧ (dispatchByte b s).buf = [] := by
  obtain ⟨f, hf, -⟩ := feedResult_of_dispatchByte_event_packet h
  obtain ⟨-, hc, -⟩ := completes_of_feedResult_frame hf
  obtain ⟨-, hlen, -⟩ := (completes_append_iff b s.buf).mp hc
  obtain ⟨-, -, hbuf⟩ := dispatchByte_framing b s
  obtain ⟨-, hempty⟩ := feedByte_idle_of_feedResult (b := b) (s := s) (by rw [hf]; exact nofun)
  exact ⟨hlen, hbuf.trans hempty⟩

/-- The bytes paid for: five for each Packet given, and those still in the buffer. -/
def State.bytesSpent (s : State) : Nat :=
  5 * packetCount s.trace + s.buf.length

theorem dispatchByte_bytesSpent_le (b : Byte) (s : State) :
    (dispatchByte b s).bytesSpent ≤ s.bytesSpent + 1 := by
  have hgrow := dispatchByte_buf_length_le b s
  simp only [State.bytesSpent, dispatchByte_trace, packetCount_append]
  cases he : (dispatchByte b s).event with
  | none | tooLong =>
    simp only [OutEvent.entries_none, OutEvent.entries_tooLong, packetCount]
    omega
  | packet pkt =>
    obtain ⟨hfive, hempty⟩ := five_le_of_dispatchByte_packet he
    simp only [OutEvent.entries_packet, packetCount, hempty, List.length_nil]
    omega

theorem dispatchChunk_bytesSpent_le (bs : Bytes) (s : State) :
    (dispatchChunk bs s).bytesSpent ≤ s.bytesSpent + bs.length := by
  induction bs generalizing s with
  | nil => exact Nat.le_refl _
  | cons b bs ih =>
    have hfirst := dispatchByte_bytesSpent_le b s
    have hrest := ih (dispatchByte b s)
    rw [dispatchChunk_cons, List.length_cons]
    omega

/-- Below five bytes a byte neither completes the frame nor reaches a bound, so nothing is given. -/
theorem dispatchByte_trace_of_short {b : Byte} {s : State} (hwf : s.params.wf = true)
    (hshort : s.buf.length + 1 < 5) : (dispatchByte b s).trace = s.trace := by
  have hnone : (feedByte b s).feedResult = .none := by
    rcases feedByte_cases b s with ⟨-, -, h⟩ | ⟨-, -, h⟩ | ⟨-, hc, -⟩ | ⟨-, -, ho, -⟩ |
        ⟨-, -, -, h⟩
    · rw [h]; rfl
    · rw [h]; rfl
    · obtain ⟨-, hlen, -⟩ := (completes_append_iff b s.buf).mp hc
      omega
    · obtain ⟨n, hn, hle⟩ := (overflows_iff _ _).mp ho
      have hfive := five_le_of_params_wf hwf hn
      rw [List.length_append, List.length_singleton] at hle
      omega
    · rw [h]; rfl
  rw [dispatchByte_trace, dispatchByte_event_of_feedResult_none hnone, OutEvent.entries_none,
    List.append_nil]

theorem dispatchChunk_trace_of_short {bs : Bytes} {s : State} (hwf : s.params.wf = true)
    (hshort : s.buf.length + bs.length < 5) : (dispatchChunk bs s).trace = s.trace := by
  induction bs generalizing s with
  | nil => rfl
  | cons b bs ih =>
    rw [List.length_cons] at hshort
    have hparams := (dispatchByte_sameSurroundings b s).params
    have hgrow := dispatchByte_buf_length_le b s
    rw [dispatchChunk_cons, ih (hparams ▸ hwf) (by omega),
      dispatchByte_trace_of_short hwf (by omega)]

/-- Settles O39: from an empty buffer every Packet is paid for by five of the bytes, and fewer than five
bytes stay below every event. -/
theorem atMostOnePacketPerFiveBytes : Obligations.AtMostOnePacketPerFiveBytes := by
  intro bs s _ hbuf
  refine ⟨dispatchChunk bs s, rfl, ?_, fun hwf hshort => ?_⟩
  · have hspent := dispatchChunk_bytesSpent_le bs s
    simp only [State.bytesSpent, hbuf, List.length_nil] at hspent
    omega
  · exact dispatchChunk_trace_of_short hwf (by rw [hbuf, List.length_nil]; omega)

end Sys2Proof.Machine
end

section
/-! PROOFS. The scan of a RawFrame that the FrameAssembler has returned (spec/41_decoder.md
section 5). -/

namespace Sys2Proof.Machine

theorem scanEnd_pend (endFlagCheck : Bool) (d : DecScratch) :
    (scanEnd endFlagCheck d).pend = d.pend := by
  unfold scanEnd
  split <;> rfl

/-- The check at the end of the scan can only add a failure (R75). -/
theorem not_failed_of_scanEnd {endFlagCheck : Bool} {d : DecScratch}
    (h : (scanEnd endFlagCheck d).failed = false) : d.failed = false := by
  unfold scanEnd at h
  split at h
  · exact nomatch h
  · exact h

/-- The flag left at the end of a scan that did not fail is the parity of the payload's `DLE`s (R80 (c)):
the scan starts with the flag clear. -/
theorem scanFrame_pend {endFlagCheck : Bool} {f : Bytes}
    (h : (scanFrame endFlagCheck f).failed = false) :
    (scanFrame endFlagCheck f).pend = odd ((framePayload f).count DLE) := by
  rw [scanFrame_eq] at h ⊢
  rw [scanEnd_pend, scanBytes_pend _ _ (not_failed_of_scanEnd h)]
  exact Bool.false_bne _

/-- The payload slice of a RawFrame is what lies between its first two and its last two bytes. -/
theorem framePayload_append_two (g : Bytes) (x y : Byte) :
    framePayload (g ++ [x] ++ [y]) = g.drop 2 := by
  simp [framePayload, slice, countFrom]

/-- In a RawFrame the count takes in the payload and the byte before the `ETX`; it is odd, so the
payload's own count is odd exactly when that byte is no `DLE` (R61, R80 (d)). -/
theorem odd_count_framePayload_iff {g : Bytes} {x : Byte} (hlen : 2 ≤ g.length)
    (hodd : countParity (g ++ [x] ++ [ETX]) = true) :
    odd ((framePayload (g ++ [x] ++ [ETX])).count DLE) = true ↔ x ≠ DLE := by
  have hetx : (ETX == DLE) = false := by decide
  rw [countParity_append_one, countParity_append_one, countParity_eq, hetx] at hodd
  rw [framePayload_append_two]
  by_cases hx : x = DLE
  · simpa [hx, hlen] using hodd
  · simpa [hx, beq_false_of_ne hx] using hodd

/-- A completed buffer ends in a byte and the `ETX`, after at least three others. -/
theorem exists_eq_append_of_completes {b : Byte} {buf : Bytes}
    (hc : completes b (buf ++ [b]) = true) : b = ETX ∧ ∃ g x, buf = g ++ [x] ∧ 3 ≤ g.length := by
  obtain ⟨hb, hlen, -⟩ := (completes_append_iff b buf).mp hc
  rcases List.eq_nil_or_concat buf with rfl | ⟨g, x, rfl⟩
  · simp at hlen
  · exact ⟨hb, g, x, by simp, by simpa using hlen⟩

/-- Settles O28: the flag is the parity of the payload's `DLE`s, and the completion test ties that to
the byte before the last. -/
theorem pendLeftSetIffTrailerMissing : Obligations.PendLeftSetIffTrailerMissing := by
  intro s t u b f hfeed hframe hdecode hfailed
  obtain rfl := Host.Outcome.next.inj hfeed
  obtain ⟨-, rfl⟩ := (onRawFrame_next_iff _ _ _).mp hdecode
  obtain ⟨-, hc, rfl⟩ := completes_of_feedResult_frame hframe
  obtain ⟨-, -, hcnt⟩ := (completes_iff _ _).mp hc
  obtain ⟨rfl, g, x, hbuf, hlen⟩ := exists_eq_append_of_completes hc
  have hodd : countParity (s.buf ++ [ETX]) = true := (odd_iff _).mpr hcnt
  have hpend := scanFrame_pend (f := s.buf ++ [ETX]) hfailed
  rw [hbuf] at hodd hpend ⊢
  have hbefore : (g ++ [x] ++ [ETX])[(g ++ [x] ++ [ETX]).length - 2]? = some x := by simp
  rw [hbefore, ne_eq, Option.some.injEq]
  exact (Bool.eq_iff_iff.mp hpend).trans
    (odd_count_framePayload_iff (Nat.le_of_succ_le hlen) hodd)

end Sys2Proof.Machine
end

section
/-! PROOFS. The Decoder's operations (spec/41_decoder.md): what the scan makes of each form of its
next bytes, the scan of a whole payload as unstuffing by pairs, and `DECODE` on its domain. -/

namespace Sys2Proof.Machine

/-! ### The scan from a clear scratch (R68, R71 to R74) -/

/-- The scratch after the scan has taken `n` payload bytes and appended these to its output. -/
def DecScratch.wrote (d : DecScratch) (bs : Bytes) (n : Nat) : DecScratch :=
  { d with out := d.out ++ bs, k := d.k + n }

@[simp] theorem DecScratch.wrote_out (d : DecScratch) (bs : Bytes) (n : Nat) :
    (d.wrote bs n).out = d.out ++ bs := rfl

theorem DecScratch.wrote_wrote (d : DecScratch) (bs cs : Bytes) (m n : Nat) :
    (d.wrote bs m).wrote cs n = d.wrote (bs ++ cs) (m + n) := by
  simp [DecScratch.wrote, Nat.add_assoc]

theorem DecScratch.Clear.wrote {d : DecScratch} (h : d.Clear) (bs : Bytes) (n : Nat) :
    (d.wrote bs n).Clear :=
  ⟨h.not_failed, h.not_pending⟩

theorem scanBytes_other {c : Byte} {d : DecScratch} (h : d.Clear) (hc : c ≠ DLE) (p : Bytes) :
    scanBytes (c :: p) d = scanBytes p (d.wrote [c] 1) := by
  rw [scanBytes_cons _ _ _ h.not_failed]
  simp [scanNext, scanByte, scanCopy, DecScratch.wrote, h.not_pending, hc]

theorem scanBytes_dle {d : DecScratch} (h : d.Clear) (p : Bytes) :
    scanBytes (DLE :: p) d = scanBytes p { d.wrote [DLE] 1 with pend := true } := by
  rw [scanBytes_cons _ _ _ h.not_failed]
  simp [scanNext, scanByte, scanDle1, DecScratch.wrote, h.not_pending]

/-- A doubled `DLE` stands for one, and leaves the scratch clear (R73, R74). -/
theorem scanBytes_dle_dle {d : DecScratch} (h : d.Clear) (p : Bytes) :
    scanBytes (DLE :: DLE :: p) d = scanBytes p (d.wrote [DLE] 2) := by
  rw [scanBytes_dle h, scanBytes_cons DLE p { d.wrote [DLE] 1 with pend := true } h.not_failed]
  simp [scanNext, scanByte, scanDle2, DecScratch.wrote, ← h.not_pending]

/-- A `DLE` before another byte is malformed, whatever follows (R72). -/
theorem scanBytes_dle_other {c : Byte} {d : DecScratch} (h : d.Clear) (hc : c ≠ DLE) (p : Bytes) :
    (scanBytes (DLE :: c :: p) d).failed = true := by
  have hfail : (scanNext c { d.wrote [DLE] 1 with pend := true }).failed = true := by
    simp [scanNext, scanByte, scanFail, hc]
  rw [scanBytes_dle h, scanBytes_cons c p { d.wrote [DLE] 1 with pend := true } h.not_failed,
    scanBytes_failed _ _ hfail, hfail]

/-- A run of `DLE`s is scanned pair by pair, with one left over when their number is odd (R74, its
corner case). -/
theorem scanBytes_replicate_dle (m : Nat) {d : DecScratch} (h : d.Clear) :
    scanBytes (List.replicate m DLE) d =
      { d.wrote (List.replicate ((m + 1) / 2) DLE) m with pend := odd m } := by
  induction m using Nat.twoStepInduction generalizing d with
  | zero => simp [odd, DecScratch.wrote, ← h.not_pending]
  | one => exact scanBytes_dle h []
  | more m ih _ =>
    have hhalf : (m + 2 + 1) / 2 = 1 + (m + 1) / 2 := by omega
    have hodd : odd (m + 2) = odd m := by simp [odd]
    rw [List.replicate_succ, List.replicate_succ, scanBytes_dle_dle h, ih (h.wrote _ _),
      DecScratch.wrote_wrote, hhalf, hodd, List.replicate_add, Nat.add_comm 2 m]
    rfl

/-! ### The end of the scan and the verdict (R75 to R77) -/

theorem scanEnd_of_checked {d : DecScratch} (h : d.failed = false) :
    scanEnd true d = { d with failed := d.pend } := by
  obtain ⟨_, _, _, pend, _, failed, _, _⟩ := d
  obtain rfl : failed = false := h
  cases pend with
  | true => rfl
  | false => rfl

theorem scanEnd_failed (endFlagCheck : Bool) {d : DecScratch} (h : d.failed = true) :
    (scanEnd endFlagCheck d).failed = true := by
  unfold scanEnd
  split
  · rfl
  · exact h

/-- The data a finished scan gives, absent where it failed. -/
def DecScratch.result (d : DecScratch) : Option Bytes :=
  if d.failed then none else some d.out

theorem DecScratch.result_of_failed {d : DecScratch} (h : d.failed = true) : d.result = none :=
  if_pos h

theorem DecScratch.result_of_not_failed {d : DecScratch} (h : d.failed = false) :
    d.result = some d.out :=
  if_neg (Bool.eq_false_iff.mp h)

theorem packetOf_eq_result_elim (d : DecScratch) :
    packetOf d = d.result.elim Packet.invalid
      fun data => { validPacket d with data := data } := by
  unfold packetOf DecScratch.result
  split <;> rfl

/-- A failure lasts: no byte that follows, and no check at the end, takes it back (R72, D11). -/
theorem packetOf_scan_of_failed (endFlagCheck : Bool) (p : Bytes) {d : DecScratch}
    (h : d.failed = true) : packetOf (scanEnd endFlagCheck (scanBytes p d)) = Packet.invalid := by
  rw [scanBytes_failed p d h]
  exact if_pos (scanEnd_failed endFlagCheck h)

/-! ### The scan of a payload is unstuffing by pairs (R43, R50, R80) -/

/-- The last byte alone: only a `DLE` makes the check at the end of the scan matter (R75). -/
theorem result_scan_singleton (endFlagCheck : Bool) (c : Byte) {d : DecScratch} (h : d.Clear) :
    (scanEnd endFlagCheck (scanBytes [c] d)).result =
      if c = DLE ∧ endFlagCheck then none else some (d.out ++ [c]) := by
  by_cases hc : c = DLE
  · subst hc
    rw [scanBytes_dle h, scanBytes_nil]
    cases endFlagCheck with
    | true => rfl
    | false => exact DecScratch.result_of_not_failed h.not_failed
  · rw [scanBytes_other h hc, scanBytes_nil,
      scanEnd_of_not_pending _ (h.wrote [c] 1).not_pending, if_neg (fun hdle => hc hdle.1)]
    exact DecScratch.result_of_not_failed h.not_failed

/-- From a clear scratch the scan appends what unstuffing by pairs gives, and fails where that does;
one case per form of the payload's head. -/
theorem result_scan (endFlagCheck : Bool) (p : Bytes) {d : DecScratch} (h : d.Clear) :
    (scanEnd endFlagCheck (scanBytes p d)).result =
      (unstuffPairs endFlagCheck p).map (d.out ++ ·) := by
  fun_induction unstuffPairs endFlagCheck p generalizing d with
  | case1 =>
    rw [scanBytes_nil, scanEnd_of_not_pending _ h.not_pending,
      DecScratch.result_of_not_failed h.not_failed, Option.map_some, List.append_nil]
  | case2 c hlone => exact (result_scan_singleton endFlagCheck c h).trans (if_pos hlone)
  | case3 c hkept => exact (result_scan_singleton endFlagCheck c h).trans (if_neg hkept)
  | case4 rest ih =>
    change (scanEnd endFlagCheck (scanBytes (DLE :: DLE :: rest) d)).result = _
    rw [scanBytes_dle_dle h, ih (h.wrote _ _), Option.map_map]
    simp [Function.comp_def, DLE]
  | case5 c rest hc =>
    exact DecScratch.result_of_failed (scanEnd_failed _ (scanBytes_dle_other h hc rest))
  | case6 c e rest hc ih =>
    rw [scanBytes_other h hc, ih (h.wrote _ _), Option.map_map]
    simp [Function.comp_def]

/-- The Packet of a RawFrame is the valid one of its pairwise unstuffed payload, or the invalid one
where unstuffing fails: the scan starts clear, with nothing in the output (R26, R68). -/
theorem decodePacket_eq_unstuffPairs (endFlagCheck : Bool) (f : Bytes) :
    decodePacket endFlagCheck f = (unstuffPairs endFlagCheck (framePayload f)).elim Packet.invalid
      fun data => { isValid := true, id := frameId f, data := data, rawData := f } := by
  have hresult := result_scan endFlagCheck (framePayload f) (d := scanStart f) ⟨rfl, rfl⟩
  obtain ⟨hframe, hid, -, -⟩ := scanBytes_frame (framePayload f) (scanStart f)
  rw [decodePacket, packetOf_eq_result_elim, scanFrame_eq, validPacket_scanEnd, hresult,
    validPacket, hframe, hid]
  cases unstuffPairs endFlagCheck (framePayload f) with
  | none => rfl
  | some data => rfl

/-! ### The statements about the scan operations -/

/-- Settles O17: the row asks for a byte that is no `DLE` and a clear flag. -/
theorem uCopyAppendsByte : Obligations.UCopyAppendsByte := by
  intro s c hc hpend
  have hwf : (c != DLE) = true := bne_iff_ne.mpr hc
  exact ⟨decodeAt_encode (i := .uCopy c) hwf (beq_iff_eq.mpr (congrArg Site.unstuff hpend)),
    (selectedWhen_next_iff _ _ _ _).mpr ⟨by rw [hwf, hpend]; rfl, rfl⟩⟩

/-- Settles O18: the row asks for a byte that is no `DLE` and a set flag, and a failure lasts. -/
theorem uFailMakesPacketInvalid : Obligations.UFailMakesPacketInvalid := by
  intro s c hc hpend
  have hwf : (c != DLE) = true := bne_iff_ne.mpr hc
  exact ⟨decodeAt_encode (i := .uFail c) hwf (beq_iff_eq.mpr (congrArg Site.unstuff hpend)),
    _, (selectedWhen_next_iff _ _ _ _).mpr ⟨by rw [hwf, hpend]; rfl, rfl⟩, rfl,
    fun rest check => packetOf_scan_of_failed check rest rfl⟩

/-- Settles O19: the row asks for a clear flag. -/
theorem uDle1CopiesAndSetsPend : Obligations.UDle1CopiesAndSetsPend :=
  fun _ hpend =>
    ⟨decodeAt_encode (i := .uDle1) rfl (beq_iff_eq.mpr (congrArg Site.unstuff hpend)),
      (selectedWhen_next_iff _ _ _ _).mpr ⟨by rw [hpend]; rfl, rfl⟩⟩

/-- Settles O20: the row asks for a set flag, and a run goes pair by pair. -/
theorem uDle2ClearsPend : Obligations.UDle2ClearsPend :=
  ⟨fun _ hpend =>
    ⟨decodeAt_encode (i := .uDle2) rfl (beq_iff_eq.mpr (congrArg Site.unstuff hpend)),
      (selectedWhen_next_iff _ _ _ _).mpr ⟨hpend, rfl⟩⟩,
    fun m _ hpend hfailed => scanBytes_replicate_dle m ⟨hfailed, hpend⟩⟩

/-! ### The statements about the steps of `DECODE` -/

/-- Settles O21: the frame has at least two bytes on the domain of R79. -/
theorem decIdTakesSecondByte : Obligations.DecIdTakesSecondByte :=
  fun s hlen => ⟨rfl, frameId s.dec.frame, getElem?_frameId _ (by omega),
    (onRawFrame_next_iff _ _ _).mpr ⟨hlen, rfl⟩⟩

/-- Settles O22: the payload slice, byte by byte. -/
theorem decSliceCutsPayload : Obligations.DecSliceCutsPayload := by
  intro s hlen
  refine ⟨rfl, framePayload s.dec.frame, (onRawFrame_next_iff _ _ _).mpr ⟨hlen, rfl⟩,
    framePayload_length _, memRead_framePayload _ (by omega), fun k hk => ?_⟩
  rw [framePayload, slice_getElem?, if_pos (show 2 + k < s.dec.frame.length - 2 by omega),
    Nat.add_comm]

/-- Settles O23: the scan has reached its end without a failure, so the parameter decides. -/
theorem decEndscanFollowsParameter : Obligations.DecEndscanFollowsParameter := by
  intro s hfailed hend
  have hrun : exec .decEndscan s = .next (s.mapDec (scanEnd s.params.endFlagCheck)) :=
    (selectedWhen_next_iff _ _ _ _).mpr ⟨by simp [hfailed, hend], rfl⟩
  refine ⟨rfl, fun hcheck => ?_, fun hcheck => ?_⟩
  · rw [hrun, hcheck]
    rfl
  · rw [hrun, hcheck, State.mapDec, scanEnd_of_checked hfailed]

/-- Settles O24: the verdict of a scan that failed. -/
theorem decInvalidReturnsInvalidPacket : Obligations.DecInvalidReturnsInvalidPacket :=
  fun _ hfailed =>
    ⟨decodeAt_encode (i := .decInvalid) rfl (beq_iff_eq.mpr (congrArg Site.verdict hfailed)),
      (selectedWhen_next_iff _ _ _ _).mpr ⟨hfailed, rfl⟩⟩

/-- Settles O25: the verdict of a scan that did not fail. -/
theorem decValidReturnsFrame : Obligations.DecValidReturnsFrame :=
  fun _ hfailed =>
    ⟨decodeAt_encode (i := .decValid) rfl (beq_iff_eq.mpr (congrArg Site.verdict hfailed)),
      (selectedWhen_next_iff _ _ _ _).mpr ⟨by rw [hfailed]; rfl, rfl⟩⟩

/-! ### The statements about `DECODE` -/

/-- Settles O26: the scratch `DECODE` ends with is a function of the frame and the parameter, and
its Packet is that of unstuffing by pairs. -/
theorem decodeUnstuffsByPairs : Obligations.DecodeUnstuffsByPairs := by
  intro f check hlen
  refine ⟨if_pos hlen, decodeScratch check f, frameId f, framePayload f, fun s hcheck => ?_,
    getElem?_frameId f (by omega), memRead_framePayload f (by omega), ?_⟩
  · rw [execDecode_of_length hlen, decodeFrame, hcheck]
    rfl
  · rw [decodeScratch, decodePacket_eq_unstuffPairs]
    cases unstuffPairs check (framePayload f) with
    | none => rfl
    | some data => rfl

/-- Settles O27: the domain of R79 on both sides. -/
theorem decodeRefusesShortFrame : Obligations.DecodeRefusesShortFrame :=
  fun _ _ hlen => ⟨if_neg (Nat.not_le.mpr hlen), if_neg (Nat.not_le.mpr hlen)⟩

/-- The scan of a frame on the wire ends clear, whether or not its end is checked (R94). -/
theorem scanFrame_frameBytes_clear (endFlagCheck : Bool) (i : Byte) (p : Bytes) :
    (scanFrame endFlagCheck (frameBytes i p)).Clear := by
  have hscan : (scanBytes (stuffBytes p) (scanStart (frameBytes i p))).Clear :=
    (scanBytes_stuffBytes p ⟨rfl, rfl⟩).1
  rwa [scanFrame_eq, framePayload_frameBytes, scanEnd_of_not_pending _ hscan.not_pending]

/-- Settles O46: the frame lies in the domain of `DECODE`, whose scan ends clear and whose Packet is
the one the frame stands for. -/
theorem decodeInvertsFrame : Obligations.DecodeInvertsFrame := by
  intro s i p hp
  have hlen : 5 ≤ (frameBytes i p).length := by
    rw [frameBytes_length]
    omega
  have hclear := scanFrame_frameBytes_clear s.params.endFlagCheck i p
  exact ⟨s.stuffReturn (frameBytes i p), _, (execFrame_next_iff _ _ _ _).mpr ⟨hp, rfl⟩,
    execDecode_of_length hlen _, congrArg some (decodePacket_frameBytes _ i p),
    hclear.not_pending, hclear.not_failed⟩

end Sys2Proof.Machine
end

section
/-! PROOFS. The Dispatcher and the step (spec/42_dispatcher.md): how `DISPATCH` is put together, what
the consumers are handed, and that neither they nor the bytes still waiting affect the block. -/

namespace Sys2Proof.Machine

/-! ### `DISPATCH` and its parts (R81) -/

/-- A RawFrame that `FEED` returns lies in the domain of `DECODE` (R61, R79). -/
theorem five_le_length_of_feedResult_frame {b : Byte} {s : State} {f : Bytes}
    (h : (feedByte b s).feedResult = .frame f) : 5 ≤ f.length := by
  obtain ⟨-, hcompletes, rfl⟩ := completes_of_feedResult_frame h
  obtain ⟨-, hlen, -⟩ := (completes_iff _ _).mp hcompletes
  exact hlen

/-- Settles O29: one clause for each result of `FEED`; a RawFrame it returns is long enough for
`DECODE`. -/
theorem dispatchComposesParts : Obligations.DispatchComposesParts := by
  intro s b
  refine ⟨feedByte b s, rfl, fun hnone => ?_, fun f hframe => ?_, fun htooLong => ?_⟩
  · exact congrArg _ (dispatchByte_of_feedResult_none hnone)
  · have hdecode := execDecode_of_length (five_le_length_of_feedResult_frame hframe) (feedByte b s)
    exact ⟨_, _, _, hdecode, rfl, rfl, congrArg _ (dispatchByte_of_feedResult_frame hframe)⟩
  · exact congrArg _ (dispatchByte_of_feedResult_tooLong htooLong)

/-! ### What the consumers are handed (R82, R83) -/

/-- Every consumer is handed the event of the step, and nothing where there is none (R82, D6). -/
theorem dispatchByte_inboxes (b : Byte) (s : State) :
    (dispatchByte b s).inboxes =
      s.inboxes.map (· ++ (dispatchByte b s).event.entries) := by
  obtain ⟨-, -, -, -, hinboxes, -⟩ := feedByte_frame b s
  rcases dispatchByte_cases b s with ⟨-, h⟩ | ⟨f, -, h⟩ | ⟨-, h⟩ <;> simp [h, hinboxes]

/-- Settles O56: a step that accepts a byte lengthens the trace and every inbox by the same event. -/
theorem stepKeepsConsumersInStepWithTrace : Obligations.StepKeepsConsumersInStepWithTrace := by
  intro s t hdelivered hstep
  rcases step_cases s t hstep with ⟨-, rfl⟩ | ⟨b, rest, -, rfl⟩
  · exact hdelivered
  · intro box hbox
    rw [dispatchByte_inboxes] at hbox
    obtain ⟨old, hold, rfl⟩ := List.mem_map.mp hbox
    rw [dispatchByte_trace, hdelivered old hold]

/-- Settles O30: the inboxes are mapped, one entry each, and no other field is written. -/
theorem deliverReachesEveryConsumer : Obligations.DeliverReachesEveryConsumer := by
  intro s pkt
  refine ⟨fun hwf => decodeAt_encode (i := .deliver pkt) hwf (beq_self_eq_true _),
    s.hand (.packet pkt), rfl, rfl, (hand_sameSurroundings _ s).consumers, fun j box hbox => ?_⟩
  rw [State.hand_inboxes, List.getElem?_map, hbox, Option.map_some]

/-! ### The block between other ports (R5, R86) -/

/-- The same block between other ports: these bytes waiting, and consumers that hold these inboxes. -/
def State.reconnect (s : State) (input : Bytes) (boxes : List (List OutEvent)) : State :=
  { s with input := input, inboxes := boxes }

/-- `FEED` neither reads nor writes the ports, whichever of its branches is taken (R54). -/
theorem feedByte_reconnect (b : Byte) (s : State) (input : Bytes)
    (boxes : List (List OutEvent)) :
    feedByte b (s.reconnect input boxes) = (feedByte b s).reconnect input boxes := by
  rcases feedByte_cases b s with ⟨hfs, rfl, h⟩ | ⟨hfs, hb, h⟩ | ⟨hfs, hc, h⟩ |
      ⟨hfs, hc, ho, h⟩ | ⟨hfs, hc, ho, h⟩ <;>
    rw [h]
  · exact feedByte_of_start hfs
  · exact feedByte_of_drop hfs hb
  · exact feedByte_of_completes hfs hc
  · exact feedByte_of_overflows hfs hc ho
  · exact feedByte_of_stays hfs hc ho

/-- `DISPATCH` between other ports does the same, and hands its event to the consumers there. -/
theorem dispatchByte_reconnect (b : Byte) (s : State) (input : Bytes)
    (boxes : List (List OutEvent)) :
    dispatchByte b (s.reconnect input boxes) =
      (dispatchByte b s).reconnect input
        (boxes.map (· ++ (dispatchByte b s).event.entries)) := by
  have hfeed := feedByte_reconnect b s input boxes
  rcases dispatchByte_cases b s with ⟨hr, h⟩ | ⟨f, hr, h⟩ | ⟨hr, h⟩ <;> rw [h]
  · rw [dispatchByte_of_feedResult_none (by rw [hfeed]; exact hr), hfeed]
    simp [State.reconnect, State.endStep, State.emit]
  · rw [dispatchByte_of_feedResult_frame (by rw [hfeed]; exact hr), hfeed]
    rfl
  · rw [dispatchByte_of_feedResult_tooLong (by rw [hfeed]; exact hr), hfeed]
    rfl

/-- The bytes that wait behind the one dispatched stay as they are and have no part in it. -/
theorem dispatchByte_otherInput (b : Byte) (s : State) (input : Bytes) :
    dispatchByte b { s with input := input } = { dispatchByte b s with input := input } := by
  have h := dispatchByte_reconnect b s input s.inboxes
  rw [← dispatchByte_inboxes] at h
  exact h

/-- What the consumers hold reaches nothing but their own inboxes (R86). -/
theorem dispatchByte_otherInboxes (b : Byte) (s : State) (boxes : List (List OutEvent)) :
    dispatchByte b { s with inboxes := boxes } =
      { dispatchByte b s with
        inboxes := boxes.map (· ++ (dispatchByte b s).event.entries) } := by
  refine (dispatchByte_reconnect b s s.input boxes).trans ?_
  rw [← (dispatchByte_sameSurroundings b s).input]
  rfl

theorem step_next_of_input_cons {s : State} {b : Byte} {rest : Bytes} (h : s.input = b :: rest) :
    step s = .next (dispatchByte b { s with input := rest }) :=
  step_of_input_cons h

/-- Settles O40: the byte accepted is dispatched alike, whatever the consumers hold. -/
theorem consumersCannotAffectBlock : Obligations.ConsumersCannotAffectBlock := by
  intro s boxes
  rcases accept_cases s with ⟨hinput, -⟩ | ⟨b, rest, hinput, -⟩
  · exact ⟨_, _, step_of_input_nil hinput,
      step_of_input_nil (s := { s with inboxes := boxes }) hinput, rfl⟩
  · have hother := dispatchByte_otherInboxes b { s with input := rest } boxes
    exact ⟨_, _, step_next_of_input_cons hinput,
      (step_next_of_input_cons (s := { s with inboxes := boxes }) hinput).trans
        (congrArg _ hother), rfl⟩

/-! ### Chunks and steps (R5, R85, R88) -/

/-- Settles O31: a chunk is a fold over its bytes, and a fold splits anywhere. -/
theorem feedchunkFoldsDispatch : Obligations.FeedchunkFoldsDispatch :=
  ⟨fun _ => rfl, fun _ _ => rfl, fun s x y =>
    ⟨rfl, dispatchChunk x s, rfl, congrArg _ (dispatchChunk_append x y s)⟩⟩

theorem run_succ_of_step {M : Host.Core} {s t : M.State} (h : M.step s = .next t) (k : Nat) :
    M.run (k + 1) s = M.run k t := by
  simp only [Host.Core.run, h]

/-- One step for each byte of a chunk gives what the chunk gives, by induction over the chunk (R85,
S1). -/
theorem run_eq_dispatchChunk {bs rest : Bytes} {s : State} (h : s.input = bs ++ rest) :
    Host.Core.run core bs.length s = .next (dispatchChunk bs { s with input := rest }) := by
  induction bs generalizing s with
  | nil =>
    obtain rfl : rest = s.input := h.symm
    rfl
  | cons b bs ih =>
    have hwaiting := (dispatchByte_sameSurroundings b { s with input := bs ++ rest }).input
    calc Host.Core.run core (bs.length + 1) s
      _ = Host.Core.run core bs.length (dispatchByte b { s with input := bs ++ rest }) :=
        run_succ_of_step (M := core) (step_next_of_input_cons h) bs.length
      _ = .next (dispatchChunk bs
            { dispatchByte b { s with input := bs ++ rest } with input := rest }) := ih hwaiting
      _ = .next (dispatchChunk (b :: bs) { s with input := rest }) := by
        rw [dispatchChunk_cons, ← dispatchByte_otherInput]

/-- Settles O32: the chunk is the fold that the steps run through, one byte each. -/
theorem stepsEqualChunk : Obligations.StepsEqualChunk :=
  fun _ _ _ hinput => ⟨_, rfl, run_eq_dispatchChunk hinput⟩

/-- Settles O35: with no byte to accept the step is `hold`. -/
theorem stepWithoutInputHolds : Obligations.StepWithoutInputHolds :=
  fun _ hinput => step_of_input_nil hinput

end Sys2Proof.Machine
end

section
/-! PROOFS. The stuffing function and the frame generator (spec/43_stuffer.md): what `STUFF` and
`FRAME` build, and that the Decoder's inverses of both make them injective. -/

namespace Sys2Proof.Machine

/-! ### One payload byte (R90, R91) -/

/-- Settles O41: the row asks for a byte that is no `DLE`. -/
theorem sCopyAppendsByte : Obligations.SCopyAppendsByte := by
  intro s c hc
  have hwf : (c != DLE) = true := bne_iff_ne.mpr hc
  exact ⟨decodeAt_encode (i := .sCopy c) hwf rfl, (selectedWhen_next_iff _ _ _ _).mpr ⟨hwf, rfl⟩⟩

/-- Settles O42: the row has no further condition. -/
theorem sDoubleAppendsPair : Obligations.SDoubleAppendsPair :=
  fun _ => ⟨decodeAt_encode (i := .sDouble) rfl rfl, rfl⟩

/-! ### `STUFF` (R92) -/

/-- `STUFF` sends each payload byte by itself. -/
theorem stuffBytes_eq_flatMap (p : Bytes) : stuffBytes p = p.flatMap stuffByte := by
  induction p with
  | nil => rfl
  | cons c p ih => rw [stuffBytes, ih, List.flatMap_cons]

theorem stuffBytes_append (p q : Bytes) : stuffBytes (p ++ q) = stuffBytes p ++ stuffBytes q := by
  simp only [stuffBytes_eq_flatMap, List.flatMap_append]

theorem stuffBytes_of_dle_not_mem {p : Bytes} (h : DLE ∉ p) : stuffBytes p = p := by
  induction p with
  | nil => rfl
  | cons c p ih =>
    obtain ⟨hc, hp⟩ : DLE ≠ c ∧ DLE ∉ p := by simpa using h
    rw [stuffBytes, stuffByte, if_neg hc.symm, ih hp, List.singleton_append]

/-- Over the whole of a sequence `cnt` counts every `DLE` (R7). -/
theorem cnt_zero_length (p : Bytes) : cnt p 0 p.length = p.count DLE := by
  rw [cnt_whole, List.drop_zero]

/-- Settles O43: `STUFF` is a map over the payload's bytes, each sent once and a `DLE` once more. -/
theorem stuffDoublesEachDle : Obligations.StuffDoublesEachDle := by
  intro s p q
  have hrun : exec (.stuff p) s = .next (s.stuffReturn (p.flatMap stuffByte)) := by
    rw [← stuffBytes_eq_flatMap]
    rfl
  refine ⟨decodeAt_encode (i := .stuff p) rfl rfl, hrun, stuffBytes_append p q, ?_,
    stuffBytes_of_dle_not_mem⟩
  rw [stuffBytes_length, cnt_zero_length]

/-! ### `FRAME` (R93) -/

theorem execFrame_of_empty {p : Bytes} (h : p.length = 0) (i : Byte) (s : State) :
    execFrame i p s = .refused .emptyPayload :=
  if_neg (by omega)

/-- Settles O44: the domain of R93 on both sides; the markers and the id are four bytes. -/
theorem frameBuildsWireShape : Obligations.FrameBuildsWireShape := by
  intro s i p
  refine ⟨fun hp => ⟨decodeAt_encode (i := .frame i p) (decide_eq_true hp) rfl,
    s.stuffReturn (stuffBytes p), s.stuffReturn (frameBytes i p), rfl,
    (execFrame_next_iff _ _ _ _).mpr ⟨hp, rfl⟩, rfl, ?_, ?_⟩, fun hp => execFrame_of_empty hp i s⟩
  · rw [State.stuffReturn_stuffOut, frameBytes_length, cnt_zero_length]
  · rw [State.stuffReturn_stuffOut, frameBytes_length]
    omega

/-! ### Injectivity (R96) -/

/-- The unstuffing scan is a left inverse of `STUFF`. -/
theorem stuffBytes_injective : Function.Injective stuffBytes := by
  intro p q h
  have hscan (r : Bytes) : (scanBytes (stuffBytes r) DecScratch.initial).out = r :=
    (scanBytes_stuffBytes r ⟨rfl, rfl⟩).2
  rw [← hscan p, h, hscan q]

/-- The Packet that `DECODE` returns for a frame holds its id and its payload (R94). -/
theorem frameBytes_injective {i j : Byte} {p q : Bytes} (h : frameBytes i p = frameBytes j q) :
    i = j ∧ p = q := by
  have hpacket : framedPacket i p = framedPacket j q := by
    rw [← decodePacket_frameBytes false i p, h, decodePacket_frameBytes]
  exact ⟨congrArg Packet.id hpacket, congrArg Packet.data hpacket⟩

/-- Settles O45: equal next states return equal sequences, which the Decoder tells apart. -/
theorem stuffAndFrameAreInjective : Obligations.StuffAndFrameAreInjective := by
  refine ⟨fun s t p q hp hq => ?_, fun s t i j p q hp hq => ?_⟩
  · have hsame : s.stuffReturn (stuffBytes p) = s.stuffReturn (stuffBytes q) :=
      Host.Outcome.next.inj (hp.trans hq.symm)
    exact stuffBytes_injective (congrArg State.stuffOut hsame)
  · obtain ⟨-, htp⟩ := (execFrame_next_iff i p s t).mp hp
    obtain ⟨-, htq⟩ := (execFrame_next_iff j q s t).mp hq
    exact frameBytes_injective (congrArg State.stuffOut (htp.symm.trans htq))

end Sys2Proof.Machine
end

section
/-! PROOFS. The overflow outcome `TooLong` of a step (spec/60_exceptions.md): where it comes from and
what it leaves in the trace. -/

namespace Sys2Proof.Machine

/-- `FEED` answers `TooLong` only in a frame whose length has reached the bound (R54, R62). -/
theorem overflows_of_feedResult_tooLong {b : Byte} {s : State}
    (h : (feedByte b s).feedResult = .tooLong) :
    s.fs = .inFrame ∧ overflows s.params (s.buf ++ [b]) = true := by
  cases hfs : s.fs with
  | inFrame => exact ⟨rfl, ((feedResult_tooLong_iff hfs b).mp h).1⟩
  | idle =>
    by_cases hb : b = DLE
    · subst hb
      rw [feedByte_of_start hfs] at h
      exact nomatch h
    · rw [feedByte_of_drop hfs hb] at h
      exact nomatch h

/-- A step that emits `TooLong` has it from `FEED` (R81, D18). -/
theorem feedResult_of_dispatchByte_event_tooLong {b : Byte} {s : State}
    (h : (dispatchByte b s).event = .tooLong) : (feedByte b s).feedResult = .tooLong := by
  rcases dispatchByte_cases b s with ⟨-, e⟩ | ⟨f, -, e⟩ | ⟨htooLong, -⟩
  · rw [e] at h
    exact nomatch h
  · rw [e] at h
    exact nomatch h
  · exact htooLong

/-- Settles O38: the event is the answer of `FEED`, which only the guard gives, and the guard needs a
bound; whatever the event, the trace grows by it alone. -/
theorem tooLongNeedsBound : Obligations.TooLongNeedsBound := by
  intro s t hstep hevent
  rcases step_cases s t hstep with ⟨-, rfl⟩ | ⟨b, rest, -, rfl⟩
  · exact nomatch hevent
  · have hresult := feedResult_of_dispatchByte_event_tooLong hevent
    obtain ⟨-, hover⟩ := overflows_of_feedResult_tooLong hresult
    obtain ⟨n, hbound, -⟩ := (overflows_iff _ _).mp hover
    refine ⟨⟨n, hbound⟩, ?_⟩
    rw [dispatchByte_trace, hevent, OutEvent.entries_tooLong]

end Sys2Proof.Machine
end
